-- ==== Sys2Proof/Word.lean ====
section
/-! DEFINITION. The widths of the hardware's values (spec/00_scope.md R5, R7; spec/30_encoding.md R61). -/

namespace Sys2Proof

/-- A byte: a memory cell, a general register, a timer (R5). -/
abbrev Byte := BitVec 8

/-- A 16-bit word: an opcode, `I`, `PC`, a stack entry (R5). -/
abbrev Word := BitVec 16

/-- The 12-bit field `nnn` of an opcode (R61). -/
abbrev Addr := BitVec 12

/-- One hexadecimal digit of an opcode (R7, R61). -/
abbrev Nibble := BitVec 4

/-- The index of a general register, of a stack entry or of a key: 0 to 15 (R12, R19, R21). -/
abbrev Reg := Fin 16

end Sys2Proof
end

