-- ==== Sys2Proof/Syntax.lean ====
section
/-! DEFINITION. The instructions: one constructor for each of the 42 rows of spec/opcode_table.json, in its order
(spec/30_encoding.md R65). Operands are the opcode's fields (R61, R63); register indexes are already numbers 0 to 15. -/

namespace Sys2Proof

/-- An instruction of the opcode map (R65), the catch-all row 42 included. -/
inductive Instr where
  /-- `00Cn`: scroll the active buffer down `n` rows (R90). -/
  | scd (n : Nibble)
  /-- `00E0`: clear the active buffer (R91). -/
  | cls
  /-- `00EE`: return from subroutine (R92). -/
  | ret
  /-- `00FB`: scroll the active buffer right 4 pixels (R93). -/
  | scr
  /-- `00FC`: scroll the active buffer left 4 pixels (R94). -/
  | scl
  /-- `00FE`: switch to low resolution (R95). -/
  | low
  /-- `00FF`: switch to high resolution (R96). -/
  | high
  /-- `1nnn`: jump (R100). -/
  | jp (nnn : Addr)
  /-- `2nnn`: call subroutine (R101). -/
  | call (nnn : Addr)
  /-- `3xkk`: skip if `Vx = kk` (R102). -/
  | seImm (x : Reg) (kk : Byte)
  /-- `4xkk`: skip if `Vx != kk` (R103). -/
  | sneImm (x : Reg) (kk : Byte)
  /-- `5xy0`: skip if `Vx = Vy` (R104). -/
  | seReg (x y : Reg)
  /-- `6xkk`: load immediate (R110). -/
  | ldImm (x : Reg) (kk : Byte)
  /-- `7xkk`: add immediate, no flag (R111). -/
  | addImm (x : Reg) (kk : Byte)
  /-- `8xy0`: copy register (R112). -/
  | ldReg (x y : Reg)
  /-- `8xy1`: OR, then `VF` is 0 (R113). -/
  | orReg (x y : Reg)
  /-- `8xy2`: AND, then `VF` is 0 (R114). -/
  | andReg (x y : Reg)
  /-- `8xy3`: exclusive OR, then `VF` is 0 (R115). -/
  | xorReg (x y : Reg)
  /-- `8xy4`: add, `VF` is the carry (R116). -/
  | addReg (x y : Reg)
  /-- `8xy5`: `Vx - Vy`, `VF` is NOT borrow (R117). -/
  | sub (x y : Reg)
  /-- `8xy6`: shift `Vx` right by one; the field `y` is decoded and ignored (R118, R69). -/
  | shr (x y : Reg)
  /-- `8xy7`: `Vy - Vx`, `VF` is NOT borrow (R119). -/
  | subn (x y : Reg)
  /-- `8xyE`: shift `Vx` left by one; the field `y` is decoded and ignored (R120, R69). -/
  | shl (x y : Reg)
  /-- `9xy0`: skip if `Vx != Vy` (R105). -/
  | sneReg (x y : Reg)
  /-- `Annn`: load index register (R125). -/
  | ldI (nnn : Addr)
  /-- `Bnnn`: jump to `V0 + nnn` (R107). -/
  | jpV0 (nnn : Addr)
  /-- `Cxkk`: masked random byte (R122). -/
  | rnd (x : Reg) (kk : Byte)
  /-- `Dxy0`: draw a 16-pixel-wide super sprite (R139). -/
  | drwSuper (x y : Reg)
  /-- `Dxyn` with `n` from 1 to 15: draw an 8-pixel-wide sprite of `n` rows (R138). -/
  | drw (x y : Reg) (n : Nibble)
  /-- `Ex9E`: skip if key down (R145). -/
  | skp (x : Reg)
  /-- `ExA1`: skip if key up (R146). -/
  | sknp (x : Reg)
  /-- `Fx07`: read the delay timer (R147). -/
  | ldVxDt (x : Reg)
  /-- `Fx0A`: wait for a key release (R151). -/
  | ldVxK (x : Reg)
  /-- `Fx15`: set the delay timer (R148). -/
  | ldDtVx (x : Reg)
  /-- `Fx18`: set the sound timer (R149). -/
  | ldStVx (x : Reg)
  /-- `Fx1E`: add register to index (R126). -/
  | addI (x : Reg)
  /-- `Fx29`: address of a low-resolution glyph (R127). -/
  | ldF (x : Reg)
  /-- `Fx30`: address of a high-resolution glyph (R128). -/
  | ldHf (x : Reg)
  /-- `Fx33`: store the three decimal digits of `Vx` (R130). -/
  | ldB (x : Reg)
  /-- `Fx55`: store `V0` to `Vx` (R131). -/
  | storeRegs (x : Reg)
  /-- `Fx65`: load `V0` to `Vx` (R132). -/
  | loadRegs (x : Reg)
  /-- Any word no other row matches: reported, then nothing (R67, R163). -/
  | unknown (op : Word)
  deriving DecidableEq, Repr

end Sys2Proof
end

