-- ==== Sys2Proof/WellFormed.lean ====
section
/-! DEFINITION. The opcode map as masks and patterns (spec/30_encoding.md R65), and which terms of `Instr` the map
can stand for. Register and immediate ranges are in the types, so two checks are left. -/

namespace Sys2Proof

/-- One row of the opcode map (R65): a word is the row's when `word AND mask = pattern`. -/
structure OpcodeRow where
  number  : Nat
  mask    : Word
  pattern : Word
  deriving DecidableEq, Repr

/-- "a word `w` is the instruction exactly when `w AND mask = match`" (R65). -/
def OpcodeRow.covers (row : OpcodeRow) (op : Word) : Bool := (op &&& row.mask) == row.pattern

/-- Rows 1 to 7 (family 0). -/
def rowsFamily0 : List OpcodeRow :=
  [⟨1, 0xFFF0, 0x00C0⟩, ⟨2, 0xFFFF, 0x00E0⟩, ⟨3, 0xFFFF, 0x00EE⟩, ⟨4, 0xFFFF, 0x00FB⟩,
   ⟨5, 0xFFFF, 0x00FC⟩, ⟨6, 0xFFFF, 0x00FE⟩, ⟨7, 0xFFFF, 0x00FF⟩]

/-- Rows 8 to 14 (families 1 to 7). -/
def rowsFamilies1to7 : List OpcodeRow :=
  [⟨8, 0xF000, 0x1000⟩, ⟨9, 0xF000, 0x2000⟩, ⟨10, 0xF000, 0x3000⟩, ⟨11, 0xF000, 0x4000⟩,
   ⟨12, 0xF00F, 0x5000⟩, ⟨13, 0xF000, 0x6000⟩, ⟨14, 0xF000, 0x7000⟩]

/-- Rows 15 to 23 (family 8). -/
def rowsFamily8 : List OpcodeRow :=
  [⟨15, 0xF00F, 0x8000⟩, ⟨16, 0xF00F, 0x8001⟩, ⟨17, 0xF00F, 0x8002⟩, ⟨18, 0xF00F, 0x8003⟩,
   ⟨19, 0xF00F, 0x8004⟩, ⟨20, 0xF00F, 0x8005⟩, ⟨21, 0xF00F, 0x8006⟩, ⟨22, 0xF00F, 0x8007⟩,
   ⟨23, 0xF00F, 0x800E⟩]

/-- Rows 24 to 31 (families 9 to E); row 28, `Dxy0`, stands before row 29, `Dxyn`, and wins over it. -/
def rowsFamilies9toE : List OpcodeRow :=
  [⟨24, 0xF00F, 0x9000⟩, ⟨25, 0xF000, 0xA000⟩, ⟨26, 0xF000, 0xB000⟩, ⟨27, 0xF000, 0xC000⟩,
   ⟨28, 0xF00F, 0xD000⟩, ⟨29, 0xF000, 0xD000⟩, ⟨30, 0xF0FF, 0xE09E⟩, ⟨31, 0xF0FF, 0xE0A1⟩]

/-- Rows 32 to 41 (family F). -/
def rowsFamilyF : List OpcodeRow :=
  [⟨32, 0xF0FF, 0xF007⟩, ⟨33, 0xF0FF, 0xF00A⟩, ⟨34, 0xF0FF, 0xF015⟩, ⟨35, 0xF0FF, 0xF018⟩,
   ⟨36, 0xF0FF, 0xF01E⟩, ⟨37, 0xF0FF, 0xF029⟩, ⟨38, 0xF0FF, 0xF030⟩, ⟨39, 0xF0FF, 0xF033⟩,
   ⟨40, 0xF0FF, 0xF055⟩, ⟨41, 0xF0FF, 0xF065⟩]

/-- The opcode map, rows 1 to 41; the first row that covers a word wins (R65). -/
def opcodeRows : List OpcodeRow :=
  rowsFamily0 ++ rowsFamilies1to7 ++ rowsFamily8 ++ rowsFamilies9toE ++ rowsFamilyF

/-- Some row of the map covers the word: it is one of the 41 instructions (R64, R66). -/
def isKnownWord (op : Word) : Bool := opcodeRows.any fun row => row.covers op

/-- The number of the map's row for a word: the first that covers it, else the catch-all row 42 (R65). -/
def rowOfWord (op : Word) : Nat :=
  match opcodeRows.find? fun row => row.covers op with
  | some row => row.number
  | none => 42

/-- The row of the map an instruction stands for (R65). -/
def Instr.rowNumber : Instr → Nat
  | .scd _ => 1 | .cls => 2 | .ret => 3 | .scr => 4 | .scl => 5 | .low => 6 | .high => 7
  | .jp _ => 8 | .call _ => 9 | .seImm _ _ => 10 | .sneImm _ _ => 11 | .seReg _ _ => 12
  | .ldImm _ _ => 13 | .addImm _ _ => 14 | .ldReg _ _ => 15 | .orReg _ _ => 16
  | .andReg _ _ => 17 | .xorReg _ _ => 18 | .addReg _ _ => 19 | .sub _ _ => 20
  | .shr _ _ => 21 | .subn _ _ => 22 | .shl _ _ => 23 | .sneReg _ _ => 24 | .ldI _ => 25
  | .jpV0 _ => 26 | .rnd _ _ => 27 | .drwSuper _ _ => 28 | .drw _ _ _ => 29 | .skp _ => 30
  | .sknp _ => 31 | .ldVxDt _ => 32 | .ldVxK _ => 33 | .ldDtVx _ => 34 | .ldStVx _ => 35
  | .addI _ => 36 | .ldF _ => 37 | .ldHf _ => 38 | .ldB _ => 39 | .storeRegs _ => 40
  | .loadRegs _ => 41 | .unknown _ => 42

/-- Which terms stand for a word of the map. `Dxyn` needs `n != 0`, since `Dxy0` is the super sprite (R69, R138);
the catch-all holds only a word that no row covers (R163). Every other term stands for a word. -/
def Instr.wellFormed : Instr → Bool
  | .drw _ _ n => n != 0
  | .unknown op => !isKnownWord op
  | .scd _ | .cls | .ret | .scr | .scl | .low | .high => true
  | .jp _ | .call _ | .jpV0 _ | .ldI _ => true
  | .seImm _ _ | .sneImm _ _ | .ldImm _ _ | .addImm _ _ | .rnd _ _ => true
  | .seReg _ _ | .sneReg _ _ | .ldReg _ _ | .orReg _ _ | .andReg _ _ | .xorReg _ _ => true
  | .addReg _ _ | .sub _ _ | .shr _ _ | .subn _ _ | .shl _ _ | .drwSuper _ _ => true
  | .skp _ | .sknp _ | .ldVxDt _ | .ldVxK _ | .ldDtVx _ | .ldStVx _ => true
  | .addI _ | .ldF _ | .ldHf _ | .ldB _ | .storeRegs _ | .loadRegs _ => true

/-- An instruction that stands for a word of the opcode map. -/
abbrev Instr.WellFormed (i : Instr) : Prop := i.wellFormed = true

end Sys2Proof
end

