-- ==== Sys2Proof/Decode.lean ====
section
/-! DEFINITION. The decoder and the encoder (spec/30_encoding.md R60 to R72). Decoding is total: every word is one of
the 41 instructions or, by name, `unknown` (R64). Decoding reads nothing but the word (R82). -/

namespace Sys2Proof

/-- A 4-bit field read as a register index (R61). -/
def regOfNibble (n : Nibble) : Reg := ⟨n.toNat, n.isLt⟩

/-- A register index as its 4-bit field (R61). -/
def nibbleOfReg (x : Reg) : Nibble := BitVec.ofNat 4 x.val

/-- Two bytes as the opcode, big-endian: the byte at the lower address is bits 15 to 8 (R44). -/
def wordOfBytes (high low : Byte) : Word := high ++ low

/-- The byte of an opcode at the lower address (R44, R72). -/
def highByte (op : Word) : Byte := op.extractLsb' 8 8

/-- The byte of an opcode at the next address (R44, R72). -/
def lowByte (op : Word) : Byte := op.extractLsb' 0 8

/-- `h = op[15:12]` (R61). -/
def fieldH (op : Word) : Nibble := op.extractLsb' 12 4

/-- `x = op[11:8]` (R61). -/
def fieldX (op : Word) : Reg := regOfNibble (op.extractLsb' 8 4)

/-- `y = op[7:4]` (R61). -/
def fieldY (op : Word) : Reg := regOfNibble (op.extractLsb' 4 4)

/-- `n = op[3:0]` (R61). -/
def fieldN (op : Word) : Nibble := op.extractLsb' 0 4

/-- `kk = op[7:0]` (R61). -/
def fieldKk (op : Word) : Byte := op.extractLsb' 0 8

/-- `nnn = op[11:0]` (R61). -/
def fieldNnn (op : Word) : Addr := op.extractLsb' 0 12

/-- Family 0 selects on the whole word: `op[11:8]` must be 0, then `kk`, with `op[7:4] = C` for `00Cn` (R64). -/
def decodeFamily0 (op : Word) : Instr :=
  if fieldX op ≠ 0 then .unknown op
  else if fieldY op = 0xC then .scd (fieldN op)
  else
    match fieldKk op with
    | 0xE0#8 => .cls
    | 0xEE#8 => .ret
    | 0xFB#8 => .scr
    | 0xFC#8 => .scl
    | 0xFE#8 => .low
    | 0xFF#8 => .high
    | _ => .unknown op

/-- Family 8 selects on `n` (R64). -/
def decodeFamily8 (op : Word) : Instr :=
  match fieldN op with
  | 0x0#4 => .ldReg (fieldX op) (fieldY op)
  | 0x1#4 => .orReg (fieldX op) (fieldY op)
  | 0x2#4 => .andReg (fieldX op) (fieldY op)
  | 0x3#4 => .xorReg (fieldX op) (fieldY op)
  | 0x4#4 => .addReg (fieldX op) (fieldY op)
  | 0x5#4 => .sub (fieldX op) (fieldY op)
  | 0x6#4 => .shr (fieldX op) (fieldY op)
  | 0x7#4 => .subn (fieldX op) (fieldY op)
  | 0xE#4 => .shl (fieldX op) (fieldY op)
  | _ => .unknown op

/-- Family E selects on `kk` (R64). -/
def decodeFamilyE (op : Word) : Instr :=
  match fieldKk op with
  | 0x9E#8 => .skp (fieldX op)
  | 0xA1#8 => .sknp (fieldX op)
  | _ => .unknown op

/-- Family F selects on `kk` (R64). -/
def decodeFamilyF (op : Word) : Instr :=
  match fieldKk op with
  | 0x07#8 => .ldVxDt (fieldX op)
  | 0x0A#8 => .ldVxK (fieldX op)
  | 0x15#8 => .ldDtVx (fieldX op)
  | 0x18#8 => .ldStVx (fieldX op)
  | 0x1E#8 => .addI (fieldX op)
  | 0x29#8 => .ldF (fieldX op)
  | 0x30#8 => .ldHf (fieldX op)
  | 0x33#8 => .ldB (fieldX op)
  | 0x55#8 => .storeRegs (fieldX op)
  | 0x65#8 => .loadRegs (fieldX op)
  | _ => .unknown op

/-- The decoder: "route on the high nibble, with sub-dispatch on low nibble or low byte" (R64). Every fixed digit of a
pattern is checked (spec/92_eei_decisions.md D3, notes/assumptions/4.md). -/
def decode (op : Word) : Instr :=
  match fieldH op with
  | 0x0#4 => decodeFamily0 op
  | 0x1#4 => .jp (fieldNnn op)
  | 0x2#4 => .call (fieldNnn op)
  | 0x3#4 => .seImm (fieldX op) (fieldKk op)
  | 0x4#4 => .sneImm (fieldX op) (fieldKk op)
  | 0x5#4 => if fieldN op = 0 then .seReg (fieldX op) (fieldY op) else .unknown op
  | 0x6#4 => .ldImm (fieldX op) (fieldKk op)
  | 0x7#4 => .addImm (fieldX op) (fieldKk op)
  | 0x8#4 => decodeFamily8 op
  | 0x9#4 => if fieldN op = 0 then .sneReg (fieldX op) (fieldY op) else .unknown op
  | 0xA#4 => .ldI (fieldNnn op)
  | 0xB#4 => .jpV0 (fieldNnn op)
  | 0xC#4 => .rnd (fieldX op) (fieldKk op)
  | 0xD#4 => if fieldN op = 0 then .drwSuper (fieldX op) (fieldY op) else .drw (fieldX op) (fieldY op) (fieldN op)
  | 0xE#4 => decodeFamilyE op
  | 0xF#4 => decodeFamilyF op
  | _ => .unknown op

/-- Decode the two bytes of an instruction, the one at the lower address first (R44, R60). -/
def decodeBytes (high low : Byte) : Instr := decode (wordOfBytes high low)

/-- A word from its four digits, most significant first (R7, R61). -/
def wordOfDigits (h x y n : Nibble) : Word := h ++ x ++ y ++ n

/-- Format XK: `hxkk` (R62). -/
def wordXk (h : Nibble) (x : Reg) (kk : Byte) : Word := h ++ nibbleOfReg x ++ kk

/-- Format XY and XYN: `hxyn` (R62). -/
def wordXyn (h : Nibble) (x y : Reg) (n : Nibble) : Word := wordOfDigits h (nibbleOfReg x) (nibbleOfReg y) n

/-- Format A: `hnnn` (R62). -/
def wordA (h : Nibble) (nnn : Addr) : Word := h ++ nnn

/-- The encoder: "Encoding an instruction is filling the pattern" (R72). -/
def encode : Instr → Word
  | .scd n => wordOfDigits 0x0 0x0 0xC n
  | .cls => 0x00E0
  | .ret => 0x00EE
  | .scr => 0x00FB
  | .scl => 0x00FC
  | .low => 0x00FE
  | .high => 0x00FF
  | .jp nnn => wordA 0x1 nnn
  | .call nnn => wordA 0x2 nnn
  | .seImm x kk => wordXk 0x3 x kk
  | .sneImm x kk => wordXk 0x4 x kk
  | .seReg x y => wordXyn 0x5 x y 0x0
  | .ldImm x kk => wordXk 0x6 x kk
  | .addImm x kk => wordXk 0x7 x kk
  | .ldReg x y => wordXyn 0x8 x y 0x0
  | .orReg x y => wordXyn 0x8 x y 0x1
  | .andReg x y => wordXyn 0x8 x y 0x2
  | .xorReg x y => wordXyn 0x8 x y 0x3
  | .addReg x y => wordXyn 0x8 x y 0x4
  | .sub x y => wordXyn 0x8 x y 0x5
  | .shr x y => wordXyn 0x8 x y 0x6
  | .subn x y => wordXyn 0x8 x y 0x7
  | .shl x y => wordXyn 0x8 x y 0xE
  | .sneReg x y => wordXyn 0x9 x y 0x0
  | .ldI nnn => wordA 0xA nnn
  | .jpV0 nnn => wordA 0xB nnn
  | .rnd x kk => wordXk 0xC x kk
  | .drwSuper x y => wordXyn 0xD x y 0x0
  | .drw x y n => wordXyn 0xD x y n
  | .skp x => wordXk 0xE x 0x9E
  | .sknp x => wordXk 0xE x 0xA1
  | .ldVxDt x => wordXk 0xF x 0x07
  | .ldVxK x => wordXk 0xF x 0x0A
  | .ldDtVx x => wordXk 0xF x 0x15
  | .ldStVx x => wordXk 0xF x 0x18
  | .addI x => wordXk 0xF x 0x1E
  | .ldF x => wordXk 0xF x 0x29
  | .ldHf x => wordXk 0xF x 0x30
  | .ldB x => wordXk 0xF x 0x33
  | .storeRegs x => wordXk 0xF x 0x55
  | .loadRegs x => wordXk 0xF x 0x65
  | .unknown op => op

/-- The instruction the decoder reads from the table's word `w` of `nbits` bits: its two bytes laid out high byte
first and decoded (R44, R60). No word is refused (R64). -/
def decodeTableWord (nbits w : Nat) : Option Instr :=
  let op : Word := BitVec.ofNat 16 (w % 2 ^ nbits)
  some (decodeBytes (highByte op) (lowByte op))

end Sys2Proof
end

