-- ==== Sys2Proof/Config.lean ====
section
/-! DEFINITION. What the spec fixes for the machine as a whole, and the values it leaves open (spec/00_scope.md R6).
A value left open is an opaque constant: nothing in Lean can evaluate it, so what is proved holds for every value. -/

namespace Sys2Proof

/-- `FONT_LO`: the 80 bytes of the low-resolution font, glyph `d` at `5d` to `5d + 4` (R6).
OPEN in the spec (spec/92_eei_decisions.md D12): left free, notes/assumptions/1.md. -/
opaque Config.fontLo : Fin 80 → Byte

/-- `FONT_HI`: the 160 bytes of the high-resolution font, glyph `d` at `10d` to `10d + 9` (R6).
OPEN in the spec (D12): left free, notes/assumptions/1.md. -/
opaque Config.fontHi : Fin 160 → Byte

/-- The random bytes: the `k`-th draw that `Cxkk` makes (R6, R122).
OPEN in the spec (D10): "a draw, under no law"; left free, notes/assumptions/2.md. -/
opaque Config.rnd : Nat → Byte

/-- `SUPER_ROWS`: the rows of a super sprite, "32 (the source's literal)" (R6, R139; D6), notes/assumptions/3.md. -/
def Config.superRows : Nat := 32

/-- The bytes of memory (R5, R11). -/
def Config.memSize : Nat := 4096

/-- The address a program is loaded at and the reset value of `PC` (R5, R16, R194). -/
def Config.loadAddress : Nat := 0x200

/-- The largest program, in bytes (R5, R196). -/
def Config.maxProgram : Nat := 3584

end Sys2Proof
end

