-- ==== Sys2Proof/Machine/State.lean ====
section
/-! DEFINITION. The state of the machine as plain data (spec/10_state.md R10), its reset value
(spec/70_reset_and_hazards.md R191), and the reasons a step could stop. -/

namespace Sys2Proof.Machine

/-- Memory as the bytes that differ from their reset contents: addresses strictly rising, below 4096, and no entry
equal to what an unlisted address reads as (`Memory.initial`, Machine/Ops.lean). -/
abbrev Memory := List Host.Cell

/-- A display buffer: `h` rows of `w` bits, row 0 at the top, the most significant bit leftmost (R26). -/
abbrev Buffer (w h : Nat) := Vector (BitVec w) h

/-- `MODE`: which buffer is active (R25). -/
inductive DisplayMode where
  | lowRes
  | highRes
  deriving DecidableEq, Repr

/-- `KW`: the key-wait machine, in the tagged form (R22, R150). -/
inductive KeyWait where
  /-- No `Fx0A` is in progress. -/
  | idle
  /-- An `Fx0A` with `x = d` has begun and no release has been seen since. -/
  | awaitingRelease (d : Reg)
  /-- A release has been captured and the `Fx0A` has not executed again. -/
  | captured
  deriving DecidableEq, Repr

/-- The state of the block, "exactly the following and nothing else" (R10), and after it the model's own two fields. -/
structure State where
  /-- `MEM`, 4096 bytes (R11). -/
  mem : Memory
  /-- `V[0]` to `V[15]`; `VF = V[15]` is also the flag (R12, R13). -/
  v : Vector Byte 16
  /-- `I`, the index register (R15). -/
  i : Word
  /-- `PC` (R16, R17). -/
  pc : Word
  /-- `STACK[0]` to `STACK[15]` (R18). -/
  stack : Vector Word 16
  /-- `SP`, the next free entry (R19). -/
  sp : Reg
  /-- `DT`, the delay timer (R20). -/
  dt : Byte
  /-- `ST`, the sound timer (R20). -/
  st : Byte
  /-- `KEY[0]` to `KEY[15]`, `true` when down (R21). -/
  key : Vector Bool 16
  /-- `KW`, the key-wait sub-state (R22). -/
  kw : KeyWait
  /-- `MODE` (R25). -/
  mode : DisplayMode
  /-- `LO`, the 64 by 32 buffer (R26). -/
  lo : Buffer 64 32
  /-- `HI`, the 128 by 64 buffer (R26). -/
  hi : Buffer 128 64
  /-- The MODEL's own field, not the spec's: how many bytes have been drawn from the random source
  (R122, R179; notes/assumptions/2.md). -/
  draws : Nat
  /-- The MODEL's own field, not the spec's: the trace of the output events `Diag(op)`, oldest first
  (R163, R164; notes/assumptions/5.md). No instruction reads it. -/
  diag : List Word
  deriving DecidableEq, Repr

/-- There is no fault: "The hardware raises no synchronous exception" (R160), and no instruction, address or state
makes a step fail, so nothing raises one. An empty type is safe and unsafe for nobody: no outcome is left out. -/
inductive Fault where
  deriving DecidableEq, Repr

/-- The reasons a step has no meaning. -/
inductive Refusal where
  /-- An instruction whose meaning is not written yet, raised by `exec`'s arm for it (safe: the machine stops where the
  hardware goes on). Every arm of `exec` has its meaning, so nothing raises it. -/
  | notModelled (mnemonic : String)
  deriving DecidableEq, Repr

/-- The outcome of running an instruction. -/
abbrev Outcome := Host.Outcome State Fault Refusal

/-- The state after `Reset` (R191). Memory lists nothing, so every byte reads as its reset contents (R50). The values
of `I`, `STACK`, `SP`, `KEY`, `KW` and `MODE` are the spec's own decision D11 (notes/assumptions/6.md), those of
`draws` and `diag` the model's (notes/assumptions/2.md and 5.md). -/
def State.reset : State where
  mem := []
  v := Vector.replicate 16 0
  i := 0
  pc := 0x200
  stack := Vector.replicate 16 0
  sp := 0
  dt := 0
  st := 0
  key := Vector.replicate 16 false
  kw := .idle
  mode := .lowRes
  lo := Vector.replicate 32 0
  hi := Vector.replicate 64 0
  draws := 0
  diag := []

end Sys2Proof.Machine
end

