-- ==== Sys2Proof/Machine/Ops.lean ====
section
/-! DEFINITION. The named operations over memory, registers, the stack and `PC` (spec/20_memory.md, spec/10_state.md),
and fetch (spec/40_fetch_decode_dispatch.md R81).

TAKING AN EXCEPTION is no operation of this hardware: "The hardware raises no synchronous exception" (R160), "The
hardware has no interrupt" (R165), "There is no trap mechanism" (R167) and "There is one mode of execution" (R168). What
happens where another machine would fault is in each operation: addresses wrap (R41), the stack wraps (R19), an unknown
word is reported and is a no-op (R163). -/

namespace Sys2Proof.Machine

/-! ## Memory -/

/-- What the address `a`, below 4096, reads as while nothing has been stored there: the reset contents (R50, R191). -/
def Memory.initial (a : Nat) : Byte :=
  if lo : a < 80 then Config.fontLo ⟨a, lo⟩
  else if hi : a < 240 then Config.fontHi ⟨a - 80, by omega⟩
  else 0

/-- The entry listed for address `a`. -/
def Memory.lookup : Memory → Nat → Option Byte
  | [], _ => none
  | (b, u) :: m, a => if b = a then some u else Memory.lookup m a

/-- List `v` at address `a`, keeping the addresses rising. -/
def Memory.insert : Memory → Nat → Byte → Memory
  | [], a, v => [(a, v)]
  | (b, u) :: m, a, v =>
    if a < b then (a, v) :: (b, u) :: m
    else if a = b then (a, v) :: m
    else (b, u) :: Memory.insert m a v

/-- Take every entry for address `a` out (a canonical memory has at most one). -/
def Memory.erase : Memory → Nat → Memory
  | [], _ => []
  | (b, u) :: m, a => if b = a then Memory.erase m a else (b, u) :: Memory.erase m a

/-- `MemRead(addr, 1)`: the byte `MEM[addr mod 4096]`; it cannot fail (R41). -/
def Memory.read (m : Memory) (addr : Nat) : Byte :=
  let a := addr % Config.memSize
  match m.lookup a with
  | some u => u
  | none => Memory.initial a

/-- `MemWrite(addr, 1, v)`: `MEM[addr mod 4096] <- v`; no address is excluded (R42). -/
def Memory.write (m : Memory) (addr : Nat) (v : Byte) : Memory :=
  let a := addr % Config.memSize
  if v = Memory.initial a then m.erase a else m.insert a v

/-- Store bytes at consecutive addresses, lowest first, each address reduced on its own (R43). -/
def Memory.writeBytes (m : Memory) (addr : Nat) : List Byte → Memory
  | [] => m
  | b :: bs => Memory.writeBytes (m.write addr b) (addr + 1) bs

/-- The canonical form from address `low` up: rising addresses below 4096, no entry equal to the reset contents. -/
def Memory.wfFrom (low : Nat) : Memory → Bool
  | [] => true
  | (a, v) :: m => decide (low ≤ a) && decide (a < Config.memSize) && (v != Memory.initial a) && Memory.wfFrom (a + 1) m

/-- The canonical form of memory. -/
def Memory.wf (m : Memory) : Bool := Memory.wfFrom 0 m

/-- `MemRead` on the state (R41). -/
def State.memRead (s : State) (addr : Nat) : Byte := s.mem.read addr

/-- `MemWrite` on the state (R42). -/
def State.memWrite (s : State) (addr : Nat) (v : Byte) : State := { s with mem := s.mem.write addr v }

/-- A block store on the state (R43). -/
def State.storeBytes (s : State) (addr : Nat) (bs : List Byte) : State := { s with mem := s.mem.writeBytes addr bs }

/-! ## Registers -/

/-- `V[x]` (R12). -/
def State.reg (s : State) (x : Reg) : Byte := s.v[x]

/-- `V[x] <- b` (R12). -/
def State.setReg (s : State) (x : Reg) (b : Byte) : State := { s with v := s.v.set x b }

/-- The index of `VF`, the flag register (R13). -/
def flagReg : Reg := 15

/-- Write the flag, and last, so that it wins over a result addressed to `VF` (R13, R14). -/
def State.setFlag (s : State) (flag : Byte) : State := s.setReg flagReg flag

/-- `V[0]` to `V[x]` get the bytes `f 0` to `f x` (R132). -/
def State.setRegsUpTo (s : State) (x : Reg) (f : Nat → Byte) : State :=
  { s with v := Vector.ofFn fun r : Reg => if r ≤ x then f r.val else s.reg r }

/-- `I <- w` (R15). -/
def State.setI (s : State) (w : Word) : State := { s with i := w }

/-- `PC <- w` (R16). -/
def State.setPc (s : State) (w : Word) : State := { s with pc := w }

/-- `DT <- b` (R20). -/
def State.setDt (s : State) (b : Byte) : State := { s with dt := b }

/-- `ST <- b` (R20). -/
def State.setSt (s : State) (b : Byte) : State := { s with st := b }

/-- `KEY[k]` (R21). -/
def State.keyDown (s : State) (k : Reg) : Bool := s.key[k]

/-- `KEY[k] <- down` (R21, R172). -/
def State.setKey (s : State) (k : Reg) (down : Bool) : State := { s with key := s.key.set k down }

/-- `KW <- kw` (R22). -/
def State.setKw (s : State) (kw : KeyWait) : State := { s with kw := kw }

/-- `MODE <- mode` (R25). -/
def State.setMode (s : State) (mode : DisplayMode) : State := { s with mode := mode }

/-- Replace the low-resolution buffer (R26). -/
def State.setLo (s : State) (lo : Buffer 64 32) : State := { s with lo := lo }

/-- Replace the high-resolution buffer (R26). -/
def State.setHi (s : State) (hi : Buffer 128 64) : State := { s with hi := hi }

/-- `emit Diag(op)`: add the report to the output trace; no machine state changes (R163, R164). -/
def State.emitDiag (s : State) (op : Word) : State := { s with diag := s.diag ++ [op] }

/-- The random source moves on by one draw (R122, R179). -/
def State.countDraw (s : State) : State := { s with draws := s.draws + 1 }

/-! ## Stack -/

/-- A push "stores at `STACK[SP]` and then sets `SP <- (SP + 1) mod 16`" (R19). -/
def State.push (s : State) (w : Word) : State := { s with stack := s.stack.set s.sp w, sp := s.sp + 1 }

/-- The entry a pop reads, `STACK[(SP - 1) mod 16]` (R19). -/
def State.top (s : State) : Word := s.stack[s.sp - 1]

/-- A pop's move of the pointer, `SP <- (SP - 1) mod 16`; the entry stays in the stack (R19, R92). -/
def State.dropTop (s : State) : State := { s with sp := s.sp - 1 }

/-! ## PC and fetch -/

/-- A taken skip: `PC <- PC +_16 2` (R102, R106). -/
def State.skipIf (s : State) (taken : Bool) : State :=
  s.setPc (if taken then s.pc + 2 else s.pc)

/-- The rewind of `Fx0A`: `PC <- PC -_16 2` (R151). -/
def State.rewindPc (s : State) : State := s.setPc (s.pc - 2)

/-- The address fetch reads at, `PC mod 4096` (R81). -/
def State.fetchAddress (s : State) : Nat := s.pc.toNat % Config.memSize

/-- The opcode at `PC`: `MemRead(a, 1) || MemRead(a + 1, 1)` (R44, R81). -/
def State.fetchWord (s : State) : Word := wordOfBytes (s.memRead s.fetchAddress) (s.memRead (s.fetchAddress + 1))

/-- The instruction at `PC` (R82). -/
def State.fetchInstr (s : State) : Instr :=
  decodeBytes (s.memRead s.fetchAddress) (s.memRead (s.fetchAddress + 1))

/-- Fetch's advance, before dispatch: `PC <- (a + 2) mod 4096` (R81). -/
def State.advancePc (s : State) : State := s.setPc (BitVec.ofNat 16 ((s.fetchAddress + 2) % Config.memSize))

/-- Store a word where fetch would read it from, high byte first (R44). -/
def State.storeWord (s : State) (addr : Nat) (w : Word) : State := s.storeBytes addr [highByte w, lowByte w]

end Sys2Proof.Machine
end

