-- ==== Sys2Proof/Machine/Flags.lean ====
section
/-! DEFINITION. The values written to `VF`, the only flag of the hardware (spec/10_state.md R13; spec/43_alu.md R121). -/

namespace Sys2Proof.Machine

/-- A flag as the byte `VF` holds: 0 or 1 (R13). -/
def flagByte (b : Bool) : Byte := if b then 1 else 0

/-- The carry of `8xy4`: bit 8 of the 9-bit sum (R116). -/
def carryFlag (a b : Byte) : Byte := flagByte ((a.setWidth 9 + b.setWidth 9).getLsbD 8)

/-- NOT borrow of `minuend - subtrahend`: 1 exactly when the minuend is at least the subtrahend (R117, R119). -/
def notBorrowFlag (minuend subtrahend : Byte) : Byte := flagByte (decide (subtrahend ≤ minuend))

/-- The bit a right shift by one shifts out: bit 0 (R118). -/
def shiftRightFlag (a : Byte) : Byte := flagByte (a.getLsbD 0)

/-- The bit a left shift by one shifts out: bit 7 (R120). -/
def shiftLeftFlag (a : Byte) : Byte := flagByte (a.getLsbD 7)

/-- What the logic instructions write: 0, always (R113). -/
def logicFlag : Byte := 0

/-- The collision report of a draw (R137, R141). -/
def collisionFlag (collided : Bool) : Byte := flagByte collided

end Sys2Proof.Machine
end

