-- ==== Sys2Proof/Machine/Operands.lean ====
section
/-! DEFINITION. The operand forms (spec/30_encoding.md R63; spec/44_index_memory.md R129): immediates are zero-extended,
never sign-extended; an index taken from a register wraps; an effective address is `I` plus a small offset. -/

namespace Sys2Proof.Machine

/-- `zext_16(nnn)` (R63). -/
def addrOperand (nnn : Addr) : Word := nnn.setWidth 16

/-- `zext_16(b)` of an 8-bit value (R7). -/
def byteOperand (b : Byte) : Word := b.setWidth 16

/-- `v[3:0]`: the digit of a glyph or the number of a key (R127, R145). -/
def lowDigit (b : Byte) : Reg := regOfNibble (b.extractLsb' 0 4)

/-- `EA(i) = (I + i) mod 4096` (R129). -/
def State.effectiveAddress (s : State) (offset : Nat) : Nat := (s.i.toNat + offset) % Config.memSize

/-- The byte at `EA(i)` (R43, R129). -/
def State.loadIndexed (s : State) (offset : Nat) : Byte := s.memRead (s.effectiveAddress offset)

/-- `I` of the low-resolution glyph of digit `d`: `5 * d` (R127). -/
def glyphLoAddress (d : Reg) : Word := BitVec.ofNat 16 (5 * d.val)

/-- `I` of the high-resolution glyph of digit `d`: `0x050 + 10 * d` (R128). -/
def glyphHiAddress (d : Reg) : Word := BitVec.ofNat 16 (0x050 + 10 * d.val)

/-- The decimal digits of a byte, hundreds first (R130). -/
def decimalDigits (b : Byte) : List Byte :=
  [BitVec.ofNat 8 (b.toNat / 100), BitVec.ofNat 8 (b.toNat / 10 % 10), BitVec.ofNat 8 (b.toNat % 10)]

/-- `V[0]` to `V[x]`, lowest first (R131). -/
def State.regsUpTo (s : State) (x : Reg) : List Byte := s.v.toList.take (x.val + 1)

end Sys2Proof.Machine
end

