-- ==== Sys2Proof/Machine/Alu.lean ====
section
/-! DEFINITION. Register load, arithmetic, logic, shift and random (spec/43_alu.md). Operands are read before anything
is written (spec/00_scope.md R8 `let`; D5, notes/assumptions/8.md). -/

namespace Sys2Proof.Machine

/-- Write a result and after it the flag, which is therefore the final `VF` when `x = F` (R14; D4,
notes/assumptions/9.md). -/
def State.setResultAndFlag (s : State) (x : Reg) (result flag : Byte) : State := (s.setReg x result).setFlag flag

/-- `V[x] <- rnd AND kk` for the byte `rnd` that the random source gives, and one draw is used up (R122). -/
def State.maskRandom (s : State) (rnd : Byte) (x : Reg) (kk : Byte) : State := (s.setReg x (rnd &&& kk)).countDraw

/-- `6xkk`: `V[x] <- kk` (R110). -/
def execLdImm (x : Reg) (kk : Byte) (s : State) : Outcome := .next (s.setReg x kk)

/-- `7xkk`: `V[x] <- V[x] +_8 kk`, no flag (R111). -/
def execAddImm (x : Reg) (kk : Byte) (s : State) : Outcome := .next (s.setReg x (s.reg x + kk))

/-- `8xy0`: `V[x] <- V[y]` (R112). -/
def execLdReg (x y : Reg) (s : State) : Outcome := .next (s.setReg x (s.reg y))

/-- `8xy1`: `V[x] <- a OR b`, then `VF <- 0` (R113). -/
def execOrReg (x y : Reg) (s : State) : Outcome := .next (s.setResultAndFlag x (s.reg x ||| s.reg y) logicFlag)

/-- `8xy2`: `V[x] <- a AND b`, then `VF <- 0` (R114). -/
def execAndReg (x y : Reg) (s : State) : Outcome := .next (s.setResultAndFlag x (s.reg x &&& s.reg y) logicFlag)

/-- `8xy3`: `V[x] <- a XOR b`, then `VF <- 0` (R115). -/
def execXorReg (x y : Reg) (s : State) : Outcome := .next (s.setResultAndFlag x (s.reg x ^^^ s.reg y) logicFlag)

/-- `8xy4`: `V[x] <- (a + b)[7:0]`, then `VF <-` the carry (R116). -/
def execAddReg (x y : Reg) (s : State) : Outcome :=
  .next (s.setResultAndFlag x (s.reg x + s.reg y) (carryFlag (s.reg x) (s.reg y)))

/-- `8xy5`: `V[x] <- a -_8 b`, then `VF <-` NOT borrow (R117). -/
def execSub (x y : Reg) (s : State) : Outcome :=
  .next (s.setResultAndFlag x (s.reg x - s.reg y) (notBorrowFlag (s.reg x) (s.reg y)))

/-- `8xy6`: `V[x] <- a >> 1`, then `VF <- a[0]`; `y` is ignored (R118). -/
def execShr (x _y : Reg) (s : State) : Outcome :=
  .next (s.setResultAndFlag x (s.reg x >>> 1) (shiftRightFlag (s.reg x)))

/-- `8xy7`: `V[x] <- b -_8 a`, then `VF <-` NOT borrow of `b - a` (R119). -/
def execSubn (x y : Reg) (s : State) : Outcome :=
  .next (s.setResultAndFlag x (s.reg y - s.reg x) (notBorrowFlag (s.reg y) (s.reg x)))

/-- `8xyE`: `V[x] <- (a << 1)[7:0]`, then `VF <- a[7]`; `y` is ignored (R120). -/
def execShl (x _y : Reg) (s : State) : Outcome :=
  .next (s.setResultAndFlag x (s.reg x <<< 1) (shiftLeftFlag (s.reg x)))

/-- `Cxkk`: `V[x] <- rnd AND kk`, `rnd` a fresh free byte (R122; D10, notes/assumptions/2.md). -/
def execRnd (x : Reg) (kk : Byte) (s : State) : Outcome := .next (s.maskRandom (Config.rnd s.draws) x kk)

end Sys2Proof.Machine
end

