-- ==== Sys2Proof/Machine/Control.lean ====
section
/-! DEFINITION. Control transfer: jumps, call, skips (spec/42_control_transfer.md). Every meaning runs after fetch has
advanced `PC`, so `PC` is the address of the next sequential instruction (R81). -/

namespace Sys2Proof.Machine

/-- `1nnn`: `PC <- zext_16(nnn)` (R100). -/
def execJp (nnn : Addr) (s : State) : Outcome := .next (s.setPc (addrOperand nnn))

/-- `2nnn`: push the advanced `PC`, then `PC <- zext_16(nnn)` (R101). -/
def execCall (nnn : Addr) (s : State) : Outcome := .next ((s.push s.pc).setPc (addrOperand nnn))

/-- `3xkk`: skip if `V[x] = kk` (R102). -/
def execSeImm (x : Reg) (kk : Byte) (s : State) : Outcome := .next (s.skipIf (s.reg x == kk))

/-- `4xkk`: skip if `V[x] != kk` (R103). -/
def execSneImm (x : Reg) (kk : Byte) (s : State) : Outcome := .next (s.skipIf (s.reg x != kk))

/-- `5xy0`: skip if `V[x] = V[y]` (R104). -/
def execSeReg (x y : Reg) (s : State) : Outcome := .next (s.skipIf (s.reg x == s.reg y))

/-- `9xy0`: skip if `V[x] != V[y]` (R105). -/
def execSneReg (x y : Reg) (s : State) : Outcome := .next (s.skipIf (s.reg x != s.reg y))

/-- `Bnnn`: `PC <- zext_16(V[0]) +_16 zext_16(nnn)` (R107). -/
def execJpV0 (nnn : Addr) (s : State) : Outcome := .next (s.setPc (byteOperand (s.reg 0) + addrOperand nnn))

end Sys2Proof.Machine
end

