-- ==== Sys2Proof/Machine/Display.lean ====
section
/-! DEFINITION. The display engine: clear, scroll and draw over a buffer of any width and height, and the active buffer
(spec/10_state.md R26, R27; spec/41_family0_display_control_return.md; spec/45_draw.md R135 to R144). -/

namespace Sys2Proof.Machine

/-! ## One buffer -/

/-- Every row 0 (R91). -/
def clearBuffer {w h : Nat} (_ : Buffer w h) : Buffer w h := Vector.replicate h 0

/-- `BUF[r] = old[r - n]` for `n <= r`, and 0 above (R90). -/
def scrollDown {w h : Nat} (n : Nat) (buf : Buffer w h) : Buffer w h :=
  Vector.ofFn fun r : Fin h => if n ≤ r.val then buf[r.val - n]'(by omega) else 0

/-- `BUF[r] <- BUF[r] >> 4`, logical in `W` bits (R93). -/
def scrollRight {w h : Nat} (buf : Buffer w h) : Buffer w h := Vector.ofFn fun r : Fin h => buf[r] >>> 4

/-- `BUF[r] <- (BUF[r] << 4) mod 2^W` (R94). -/
def scrollLeft {w h : Nat} (buf : Buffer w h) : Buffer w h := Vector.ofFn fun r : Fin h => buf[r] <<< 4

/-- The pixel in column `c` of row `r`: bit `W - 1 - c` of the row (R26); off the buffer no pixel is lit. -/
def bufferPixel {w h : Nat} (buf : Buffer w h) (c r : Nat) : Bool :=
  if inside : r < h then buf[r].getMsbD c else false

/-- `mask = ((zext_W(d) << (W - SW)) >> x0)`, both shifts logical in `W` bits (R137). -/
def placeRow {sw : Nat} (w x0 : Nat) (d : BitVec sw) : BitVec w := (d.setWidth w <<< (w - sw)) >>> x0

/-- The rows of a sprite still to draw, from row `r` on: collision is tested before the XOR, and the loop stops at the
first row below the buffer (R137). -/
def drawRows {w h : Nat} (mask : Nat → BitVec w) (y0 : Nat) : Nat → Nat → Buffer w h → Bool → Buffer w h × Bool
  | 0, _, buf, collided => (buf, collided)
  | rows + 1, r, buf, collided =>
    if inside : y0 + r < h then
      let old := buf[y0 + r]
      drawRows mask y0 rows (r + 1) (buf.set (y0 + r) (old ^^^ mask r)) (collided || (old &&& mask r) != 0)
    else (buf, collided)

/-- A whole sprite on a buffer, its start coordinate wrapped into it (R136, R137): the new buffer and whether any drawn
row collided. -/
def drawSprite {w h sw : Nat} (buf : Buffer w h) (vx vy : Byte) (rows : Nat) (row : Nat → BitVec sw) :
    Buffer w h × Bool :=
  drawRows (fun r => placeRow w (vx.toNat % w) (row r)) (vy.toNat % h) rows 0 buf false

/-! ## The active buffer -/

/-- `W`: the width of the active buffer (R27). -/
def State.width (s : State) : Nat :=
  match s.mode with
  | .lowRes => 64
  | .highRes => 128

/-- `H`: the height of the active buffer (R27). -/
def State.height (s : State) : Nat :=
  match s.mode with
  | .lowRes => 32
  | .highRes => 64

/-- Pixel `(c, r)` of the picture: of the active buffer only (R26, R176). -/
def State.pixel (s : State) (c r : Nat) : Bool :=
  match s.mode with
  | .lowRes => bufferPixel s.lo c r
  | .highRes => bufferPixel s.hi c r

/-- Apply an operation to the active buffer only (R27). -/
def State.updateActive (s : State) (f : {w h : Nat} → Buffer w h → Buffer w h) : State :=
  match s.mode with
  | .lowRes => s.setLo (f s.lo)
  | .highRes => s.setHi (f s.hi)

/-- Row `r` of an 8-pixel-wide sprite: the byte at `EA(r)` (R138). -/
def State.spriteRow (s : State) (r : Nat) : BitVec 8 := s.loadIndexed r

/-- Row `r` of a super sprite: the bytes at `EA(2r)` and `EA(2r + 1)`, high byte first (R46, R139; D7,
notes/assumptions/7.md). -/
def State.superRow (s : State) (r : Nat) : BitVec 16 := s.loadIndexed (2 * r) ++ s.loadIndexed (2 * r + 1)

/-- `SUPER_ROWS`, the rows of a super sprite (R139). -/
def superSpriteRows : Nat := Config.superRows

/-- `Draw(x, y, rows, SW)` (R137). Coordinates and sprite rows are read from the state before the instruction; `VF` ends
as the collision report, which is what clearing it first and OR-ing 1 into it leaves. -/
def State.draw {sw : Nat} (s : State) (x y : Reg) (rows : Nat) (row : Nat → BitVec sw) : State :=
  match s.mode with
  | .lowRes =>
    let drawn := drawSprite s.lo (s.reg x) (s.reg y) rows row
    (s.setLo drawn.1).setFlag (collisionFlag drawn.2)
  | .highRes =>
    let drawn := drawSprite s.hi (s.reg x) (s.reg y) rows row
    (s.setHi drawn.1).setFlag (collisionFlag drawn.2)

end Sys2Proof.Machine
end

