-- ==== Sys2Proof/Machine/Draw.lean ====
section
/-! DEFINITION. Sprite drawing (spec/45_draw.md): both instructions are the one procedure of R137. -/

namespace Sys2Proof.Machine

/-- `Dxy0`: `Draw(x, y, SUPER_ROWS, 16)`, in both display modes (R139; D6 and D8, notes/assumptions/3.md and 7.md). -/
def execDrwSuper (x y : Reg) (s : State) : Outcome := .next (s.draw x y superSpriteRows s.superRow)

/-- `Dxyn`: `Draw(x, y, n, 8)` (R138). -/
def execDrw (x y : Reg) (n : Nibble) (s : State) : Outcome := .next (s.draw x y n.toNat s.spriteRow)

end Sys2Proof.Machine
end

