-- ==== Sys2Proof/Machine/Family0.lean ====
section
/-! DEFINITION. Family 0: scroll, clear, return, mode switch (spec/41_family0_display_control_return.md). Every meaning
runs after fetch has advanced `PC` (R81). -/

namespace Sys2Proof.Machine

/-- `00Cn`: "scroll active buffer down by n rows" (R90). -/
def execScd (n : Nibble) (s : State) : Outcome := .next (s.updateActive (scrollDown n.toNat))

/-- `00E0`: "Clear the active display buffer only." (R91). -/
def execCls (s : State) : Outcome := .next (s.updateActive clearBuffer)

/-- `00EE`: "decrement stack pointer modulo 16, load PC from that slot" (R92). -/
def execRet (s : State) : Outcome := .next (s.dropTop.setPc s.top)

/-- `00FB`: scroll every row of the active buffer 4 pixels right (R93). -/
def execScr (s : State) : Outcome := .next (s.updateActive scrollRight)

/-- `00FC`: scroll every row of the active buffer 4 pixels left (R94). -/
def execScl (s : State) : Outcome := .next (s.updateActive scrollLeft)

/-- `00FE`: to `LowRes`, clearing `LO`, "but only if not already in that mode" (R95). -/
def execLow (s : State) : Outcome :=
  match s.mode with
  | .lowRes => .next s
  | .highRes => .next ((s.setMode .lowRes).setLo (clearBuffer s.lo))

/-- `00FF`: to `HighRes`, clearing `HI`, "but only if not already in that mode" (R96). -/
def execHigh (s : State) : Outcome :=
  match s.mode with
  | .lowRes => .next ((s.setMode .highRes).setHi (clearBuffer s.hi))
  | .highRes => .next s

end Sys2Proof.Machine
end

