-- ==== Sys2Proof/Machine/Index.lean ====
section
/-! DEFINITION. Index register, font address, decimal store, block store and load (spec/44_index_memory.md). No meaning
here writes a flag, and only the first four write `I` (R15, R129). -/

namespace Sys2Proof.Machine

/-- `Annn`: `I <- zext_16(nnn)` (R125). -/
def execLdI (nnn : Addr) (s : State) : Outcome := .next (s.setI (addrOperand nnn))

/-- `Fx1E`: `I <- I +_16 zext_16(V[x])`, no flag (R126). -/
def execAddI (x : Reg) (s : State) : Outcome := .next (s.setI (s.i + byteOperand (s.reg x)))

/-- `Fx29`: `I <-` the address of the low-resolution glyph of `V[x][3:0]` (R127). -/
def execLdF (x : Reg) (s : State) : Outcome := .next (s.setI (glyphLoAddress (lowDigit (s.reg x))))

/-- `Fx30`: `I <-` the address of the high-resolution glyph of `V[x][3:0]` (R128). -/
def execLdHf (x : Reg) (s : State) : Outcome := .next (s.setI (glyphHiAddress (lowDigit (s.reg x))))

/-- `Fx33`: the three decimal digits of `V[x]` at `I`, `I + 1`, `I + 2` (R130). -/
def execLdB (x : Reg) (s : State) : Outcome :=
  .next (s.storeBytes (s.effectiveAddress 0) (decimalDigits (s.reg x)))

/-- `Fx55`: `V[0]` to `V[x]` at `I` upward; `I` stays (R131; D13, notes/assumptions/10.md). -/
def execStoreRegs (x : Reg) (s : State) : Outcome := .next (s.storeBytes (s.effectiveAddress 0) (s.regsUpTo x))

/-- `Fx65`: `V[0]` to `V[x]` from `I` upward; `I` stays (R132; D13, notes/assumptions/10.md). -/
def execLoadRegs (x : Reg) (s : State) : Outcome := .next (s.setRegsUpTo x s.loadIndexed)

end Sys2Proof.Machine
end

