-- ==== Sys2Proof/Machine/Keys.lean ====
section
/-! DEFINITION. Key skips, timer access and the blocking key wait (spec/46_keys_timers.md). -/

namespace Sys2Proof.Machine

/-- `Ex9E`: skip if the key `V[x] mod 16` is down (R145; D9, notes/assumptions/11.md). -/
def execSkp (x : Reg) (s : State) : Outcome := .next (s.skipIf (s.keyDown (lowDigit (s.reg x))))

/-- `ExA1`: skip if the key `V[x] mod 16` is up (R146; D9, notes/assumptions/11.md). -/
def execSknp (x : Reg) (s : State) : Outcome := .next (s.skipIf (!s.keyDown (lowDigit (s.reg x))))

/-- `Fx07`: `V[x] <- DT` (R147). -/
def execLdVxDt (x : Reg) (s : State) : Outcome := .next (s.setReg x s.dt)

/-- `Fx15`: `DT <- V[x]` (R148). -/
def execLdDtVx (x : Reg) (s : State) : Outcome := .next (s.setDt (s.reg x))

/-- `Fx18`: `ST <- V[x]` (R149). -/
def execLdStVx (x : Reg) (s : State) : Outcome := .next (s.setSt (s.reg x))

/-- `Fx0A`: begin the wait, go on waiting, or leave it (R151). The destination register is written by the key event
that reports the release, not here (R153; Machine/Events.lean). -/
def execLdVxK (x : Reg) (s : State) : Outcome :=
  match s.kw with
  | .idle => .next (s.setKw (.awaitingRelease x)).rewindPc
  | .awaitingRelease _ => .next s.rewindPc
  | .captured => .next (s.setKw .idle)

end Sys2Proof.Machine
end

