-- ==== Sys2Proof/Machine/Unknown.lean ====
section
/-! DEFINITION. The catch-all row of the opcode map (spec/60_exceptions.md R163). -/

namespace Sys2Proof.Machine

/-- `UNKNOWN`: "reported (diagnostic output) and otherwise treated as a no-op" (R163). -/
def execUnknown (op : Word) (s : State) : Outcome := .next (s.emitDiag op)

end Sys2Proof.Machine
end

