-- ==== Sys2Proof/Machine/Step.lean ====
section
/-! DEFINITION. The step: one fetch, decode and execute of one instruction (spec/40_fetch_decode_dispatch.md R80 to
R84). -/

namespace Sys2Proof.Machine

/-- `Step` (R84): the instruction at `PC`, run after `PC` has been advanced. -/
def step (s : State) : Host.Outcome State Fault Refusal := exec s.fetchInstr s.advancePc

/-- The state with the table's word `w` of `nbits` bits stored where the next step fetches (R44, R81). It stands for
the host's `Load`, the only way a program enters the machine (R198; notes/assumptions/12.md). -/
def State.withFetchWord (s : State) (nbits w : Nat) : State :=
  s.storeWord s.fetchAddress (BitVec.ofNat 16 (w % 2 ^ nbits))

end Sys2Proof.Machine
end

