-- ==== Sys2Proof/Machine/Events.lean ====
section
/-! DEFINITION. The host's events (spec/60_exceptions.md R170 to R178; spec/70_reset_and_hazards.md R190 to R197): what
besides an instruction step changes the state, and what the host observes. Each event is atomic (R48, R166). -/

namespace Sys2Proof.Machine

/-- "if `delay_timer > 0`, decrement by 1" (R171). -/
def countDown (t : Byte) : Byte := if t = 0 then 0 else t - 1

/-- `Tick`: the two timers count down, "never below zero"; nothing else changes (R171). -/
def tick (s : State) : State := (s.setDt (countDown s.dt)).setSt (countDown s.st)

/-- The key-wait part of a key event: a release while `AwaitingRelease(d)` writes the key's number to `V[d]` (R153;
D15 and D16, notes/assumptions/13.md). -/
def captureRelease (k : Reg) (s : State) : State :=
  match s.kw with
  | .awaitingRelease d => (s.setReg d (BitVec.ofNat 8 k.val)).setKw .captured
  | .idle => s
  | .captured => s

/-- `KeyEvent(k, is_down)`: the latch, then on a release the key-wait machine (R172). -/
def keyEvent (k : Reg) (isDown : Bool) (s : State) : State :=
  if isDown then s.setKey k isDown else captureRelease k (s.setKey k isDown)

/-- `Reset`: every piece of the machine's state at its reset value (R190, R191). The random source and the trace of
reports are outside the machine and go on (R28; notes/assumptions/5.md). -/
def resetEvent (s : State) : State := { State.reset with draws := s.draws, diag := s.diag }

/-- `Load(rom)`: `true` and the reset state with the program at `0x200`, or `false` and no change when the program is
longer than 3584 bytes (R194, R196). -/
def load (rom : List Byte) (s : State) : Bool × State :=
  if rom.length ≤ Config.maxProgram then (true, (resetEvent s).storeBytes Config.loadAddress rom) else (false, s)

/-- What `Observe` gives the host: the mode, the picture row by row, and the sound level (R176 to R178). -/
structure Observation where
  mode    : DisplayMode
  picture : List (List Bool)
  sound   : Bool
  deriving DecidableEq, Repr

/-- The sound level `ST > 0` (R178). -/
def soundLevel (s : State) : Bool := s.st != 0

/-- `Observe`: the active buffer as `W` by `H` pixels, read without side effect (R176 to R178). -/
def observe (s : State) : Observation where
  mode := s.mode
  picture := (List.range s.height).map fun r => (List.range s.width).map fun c => s.pixel c r
  sound := soundLevel s

/-- The events of the interface (R170). -/
inductive Event where
  | step
  | tick
  | keyEvent (k : Reg) (isDown : Bool)
  | reset
  | load (rom : List Byte)
  | observe
  deriving DecidableEq, Repr

/-- One event on the machine (R170). A `Load` that fails leaves the state as it is (R196). -/
def handle (e : Event) (s : State) : Outcome :=
  match e with
  | .step => Sys2Proof.Machine.step s
  | .tick => .next (Sys2Proof.Machine.tick s)
  | .keyEvent k isDown => .next (Sys2Proof.Machine.keyEvent k isDown s)
  | .reset => .next (resetEvent s)
  | .load rom => .next (Sys2Proof.Machine.load rom s).2
  | .observe => .next s

/-- A sequence of events in the host's order, "totally ordered" and one at a time (R166). -/
def handleAll : List Event → State → Outcome
  | [], s => .next s
  | e :: es, s =>
    match handle e s with
    | .next t => handleAll es t
    | .fault r => .fault r
    | .refused r => .refused r

/-- The host's duty for key events: report transitions only (R175). No rule of the model assumes it. -/
def keepsKeyDuty (e : Event) (s : State) : Bool :=
  match e with
  | .keyEvent k isDown => s.keyDown k != isDown
  | .step | .tick | .reset | .load _ | .observe => true

end Sys2Proof.Machine
end

