-- ==== Sys2Proof/Safety.lean ====
section
/-! DEFINITION. The terms claims are stated in: what a change leaves alone, what each instruction may write, the
invariant of the machine, and what a safe run is on a hardware that has no fault (spec/60_exceptions.md R160, R164). -/

namespace Sys2Proof.Machine

/-! ## Frames -/

/-- The parts of the state, for saying which of them a change leaves alone. -/
inductive Part where
  | memory | registers | index | pc | stack | delayTimer | soundTimer | keys | keyWait | mode | lowBuffer | highBuffer
  | draws | diag
  deriving DecidableEq, Repr

/-- One part is the same in both states. Memory is compared through the read of one byte, at every address. -/
def SamePart (s t : State) : Part → Prop
  | .memory => ∀ a, t.memRead a = s.memRead a
  | .registers => ∀ r, t.reg r = s.reg r
  | .index => t.i = s.i
  | .pc => t.pc = s.pc
  | .stack => t.stack = s.stack ∧ t.sp = s.sp
  | .delayTimer => t.dt = s.dt
  | .soundTimer => t.st = s.st
  | .keys => t.key = s.key
  | .keyWait => t.kw = s.kw
  | .mode => t.mode = s.mode
  | .lowBuffer => t.lo = s.lo
  | .highBuffer => t.hi = s.hi
  | .draws => t.draws = s.draws
  | .diag => t.diag = s.diag

/-- Every part but those listed is the same. -/
def SameExcept (changed : List Part) (s t : State) : Prop := ∀ p, p ∉ changed → SamePart s t p

/-- Every general register but those listed is the same. -/
def SameRegsExcept (changed : List Reg) (s t : State) : Prop := ∀ r, r ∉ changed → t.reg r = s.reg r

/-- Every byte of memory is the same but those at the listed addresses, which are below 4096. -/
def SameMemoryExcept (stored : List Nat) (s t : State) : Prop :=
  ∀ a, a % Config.memSize ∉ stored → t.memRead a = s.memRead a

/-- The part that holds the active buffer (R27). -/
def State.activePart (s : State) : Part :=
  match s.mode with
  | .lowRes => .lowBuffer
  | .highRes => .highBuffer

/-! ## What each instruction may write -/

/-- The parts of the state each instruction may write. The tables of R13, R15, R18, R20, R22, R25, R27 and R40 and the
"written by" column of R180, put together by instruction. -/
def State.mayWrite (s : State) : Instr → List Part
  | .scd _ | .cls | .scr | .scl => [s.activePart]
  | .ret | .call _ => [.pc, .stack]
  | .low => [.mode, .lowBuffer]
  | .high => [.mode, .highBuffer]
  | .jp _ | .jpV0 _ | .seImm _ _ | .sneImm _ _ | .seReg _ _ | .sneReg _ _ | .skp _ | .sknp _ => [.pc]
  | .ldImm _ _ | .addImm _ _ | .ldReg _ _ | .orReg _ _ | .andReg _ _ | .xorReg _ _ | .addReg _ _ | .sub _ _
  | .shr _ _ | .subn _ _ | .shl _ _ | .ldVxDt _ | .loadRegs _ => [.registers]
  | .rnd _ _ => [.registers, .draws]
  | .ldI _ | .addI _ | .ldF _ | .ldHf _ => [.index]
  | .drwSuper _ _ | .drw _ _ _ => [.registers, s.activePart]
  | .ldVxK _ => [.pc, .keyWait]
  | .ldDtVx _ => [.delayTimer]
  | .ldStVx _ => [.soundTimer]
  | .ldB _ | .storeRegs _ => [.memory]
  | .unknown _ => [.diag]

/-- The general registers each instruction may write: its destination, and `VF` for those of R13. -/
def regsMayWrite : Instr → List Reg
  | .ldImm x _ | .addImm x _ | .ldReg x _ | .rnd x _ | .ldVxDt x => [x]
  | .orReg x _ | .andReg x _ | .xorReg x _ | .addReg x _ | .sub x _ | .shr x _ | .subn x _ | .shl x _ => [x, flagReg]
  | .drwSuper _ _ | .drw _ _ _ => [flagReg]
  | .loadRegs x => (List.finRange 16).filter fun r => r ≤ x
  | .scd _ | .cls | .scr | .scl | .ret | .call _ | .low | .high | .jp _ | .jpV0 _ => []
  | .seImm _ _ | .sneImm _ _ | .seReg _ _ | .sneReg _ _ | .skp _ | .sknp _ => []
  | .ldI _ | .addI _ | .ldF _ | .ldHf _ | .ldVxK _ | .ldDtVx _ | .ldStVx _ | .ldB _ | .storeRegs _ | .unknown _ => []

/-- The instructions of the table of R13: those that write `VF` as a side effect. -/
def writesFlag : Instr → Bool
  | .orReg _ _ | .andReg _ _ | .xorReg _ _ | .addReg _ _ | .sub _ _ | .shr _ _ | .subn _ _ | .shl _ _ => true
  | .drwSuper _ _ | .drw _ _ _ => true
  | .ldImm _ _ | .addImm _ _ | .ldReg _ _ | .rnd _ _ | .ldVxDt _ | .loadRegs _ => false
  | .scd _ | .cls | .scr | .scl | .ret | .call _ | .low | .high | .jp _ | .jpV0 _ => false
  | .seImm _ _ | .sneImm _ _ | .seReg _ _ | .sneReg _ _ | .skp _ | .sknp _ => false
  | .ldI _ | .addI _ | .ldF _ | .ldHf _ | .ldVxK _ | .ldDtVx _ | .ldStVx _ | .ldB _ | .storeRegs _ | .unknown _ => false

/-- `PC` after each instruction, from a state whose `PC` fetch has advanced to `P` (the table of R108). -/
def State.pcAfter (s : State) : Instr → Word
  | .jp nnn | .call nnn => nnn.setWidth 16
  | .jpV0 nnn => (s.reg 0).setWidth 16 + nnn.setWidth 16
  | .ret => s.stack[s.sp - 1]
  | .seImm x kk => if s.reg x = kk then s.pc + 2 else s.pc
  | .sneImm x kk => if s.reg x = kk then s.pc else s.pc + 2
  | .seReg x y => if s.reg x = s.reg y then s.pc + 2 else s.pc
  | .sneReg x y => if s.reg x = s.reg y then s.pc else s.pc + 2
  | .skp x => if s.keyDown (lowDigit (s.reg x)) then s.pc + 2 else s.pc
  | .sknp x => if s.keyDown (lowDigit (s.reg x)) then s.pc else s.pc + 2
  | .ldVxK _ => if s.kw = .captured then s.pc else s.pc - 2
  | .scd _ | .cls | .scr | .scl | .low | .high | .unknown _ => s.pc
  | .ldImm _ _ | .addImm _ _ | .ldReg _ _ | .orReg _ _ | .andReg _ _ | .xorReg _ _ | .addReg _ _ | .sub _ _ => s.pc
  | .shr _ _ | .subn _ _ | .shl _ _ | .rnd _ _ | .drwSuper _ _ | .drw _ _ _ => s.pc
  | .ldI _ | .addI _ | .ldF _ | .ldHf _ | .ldB _ | .storeRegs _ | .loadRegs _ => s.pc
  | .ldVxDt _ | .ldDtVx _ | .ldStVx _ => s.pc

/-- The same instruction executed several times in a row. -/
def execTimes (i : Instr) : Nat → State → Outcome
  | 0, s => .next s
  | n + 1, s =>
    match exec i s with
    | .next t => execTimes i n t
    | .fault r => .fault r
    | .refused r => .refused r

/-! ## Pixels of a sprite -/

/-- The sprite's pixel at the screen position `(c, r)`: the bit `c - x0` from the left of the sprite row `r - y0`, dark
outside the sprite's rectangle (R140). -/
def spritePixel {sw : Nat} (row : Nat → BitVec sw) (x0 y0 rows c r : Nat) : Bool :=
  decide (x0 ≤ c ∧ c < x0 + sw ∧ y0 ≤ r ∧ r < y0 + rows) && (row (r - y0)).getMsbD (c - x0)

/-- The same for a draw with coordinates in `V[x]` and `V[y]`, wrapped into the active buffer (R136). -/
def State.spriteAt {sw : Nat} (s : State) (x y : Reg) (rows : Nat) (row : Nat → BitVec sw) (c r : Nat) : Bool :=
  spritePixel row ((s.reg x).toNat % s.width) ((s.reg y).toNat % s.height) rows c r

/-! ## The invariant -/

/-- Every stack entry is an address below 4096 (R17). -/
def StackInRange (s : State) : Prop := ∀ k : Reg, s.stack[k].toNat < Config.memSize

/-- The values `PC` can hold between steps (R17): at most `0x10FE`, or the two that a rewind over address 0 leaves. -/
def PcInRange (s : State) : Prop := s.pc.toNat ≤ 0x10FE ∨ s.pc = 0xFFFE ∨ s.pc = 0xFFFF

/-- While the key-wait machine is not idle, the instruction at `PC` is the waiting `Fx0A`, with the register that was
recorded (R155). -/
def WaitAtPc (s : State) : Prop :=
  match s.kw with
  | .idle => True
  | .awaitingRelease d => s.fetchInstr = .ldVxK d
  | .captured => ∃ x, s.fetchInstr = .ldVxK x

/-- The invariant of the machine. -/
structure Inv (s : State) : Prop where
  memory : s.mem.wf = true
  stack : StackInRange s
  pc : PcInRange s
  wait : WaitAtPc s

/-! ## Runs -/

/-- The states some sequence of host events reaches from reset (R170). -/
def Reachable (s : State) : Prop := ∃ es, handleAll es State.reset = .next s

/-- A run is safe when every event is answered with a next state (R160). -/
def SafeRun (es : List Event) (s : State) : Prop := ∃ t, handleAll es s = .next t

/-- A run is quiet when it reports no unknown opcode: "a report means the program ran into a word the table gives no
meaning" (R164). -/
def QuietRun (es : List Event) (s : State) : Prop := ∃ t, handleAll es s = .next t ∧ t.diag = s.diag

end Sys2Proof.Machine
end

