-- ==== Sys2Proof/Certificates/Slice0/Obligations.lean ====
section
/-! DEFINITION. The statements for the provers. Each docstring names the rule or section of spec/ it formalises, and
says where a clause is the spec's own decision (spec/92_eei_decisions.md D<n>) or the model's choice, with its log
entry. `exec i s` runs `i` in a state whose `PC` fetch has already advanced (R81). -/

open Sys2Proof Sys2Proof.Machine

/-! ## Encoding -/

/-- Encoding is filling the pattern and decoding reads it back: no bit of an operand is dropped, for every
well-formed instruction and every operand (spec/30_encoding.md sections 1, 2 and 5). Rests on D3: the catch-all holds
the words with a wrong fixed digit. -/
def Obligations.DecodingAnEncodedInstructionGivesItBack : Prop :=
  ∀ i : Instr, i.WellFormed → decodeBytes (highByte (encode i)) (lowByte (encode i)) = i

/-- Every word has one meaning, is a well-formed instruction or the catch-all, and is the encoding of what it decodes to
(spec/30_encoding.md section 2). -/
def Obligations.EveryWordIsTheEncodingOfItsInstruction : Prop :=
  ∀ op : Word, (decode op).WellFormed ∧ encode (decode op) = op

/-- R65: a word is the instruction of the first row whose masked digits it has, the catch-all when it has none, and no
two rows match one word but `Dxy0` and `Dxyn`. That every fixed digit is compared is decision D3,
notes/assumptions/4.md. -/
def Obligations.DecoderFollowsTheOpcodeMap : Prop :=
  (∀ op : Word, (decode op).rowNumber = rowOfWord op) ∧
  ∀ op : Word, ∀ p ∈ opcodeRows, ∀ q ∈ opcodeRows, p.covers op = true → q.covers op = true → p.number < q.number →
    p.number = 28 ∧ q.number = 29

/-- Words written out from the patterns of R65, at least one for each of the sixteen high digits, decode to the
instructions they stand for, and words that are one digit off to the catch-all. That `01E0` and `5121` are the
catch-all, one fixed digit being wrong, is decision D3, notes/assumptions/4.md. -/
def Obligations.SampleWordsDecodeAsTheMapSays : Prop :=
  decode 0x00C5 = .scd 5 ∧ decode 0x00EE = .ret ∧ decode 0x00FD = .unknown 0x00FD ∧
  decode 0x01E0 = .unknown 0x01E0 ∧ decode 0x1ABC = .jp 0xABC ∧ decode 0x2DEF = .call 0xDEF ∧
  decode 0x3A42 = .seImm 0xA 0x42 ∧ decode 0x4B17 = .sneImm 0xB 0x17 ∧ decode 0x5120 = .seReg 1 2 ∧
  decode 0x5121 = .unknown 0x5121 ∧ decode 0x6C80 = .ldImm 0xC 0x80 ∧ decode 0x72FF = .addImm 2 0xFF ∧
  decode 0x8F16 = .shr 0xF 1 ∧ decode 0x8018 = .unknown 0x8018 ∧ decode 0x9AB0 = .sneReg 0xA 0xB ∧
  decode 0xAFFF = .ldI 0xFFF ∧ decode 0xB300 = .jpV0 0x300 ∧ decode 0xC30F = .rnd 3 0x0F ∧
  decode 0xD120 = .drwSuper 1 2 ∧ decode 0xD12F = .drw 1 2 15 ∧ decode 0xE59E = .skp 5 ∧ decode 0xF30A = .ldVxK 3 ∧
  decode 0xF155 = .storeRegs 1 ∧ decode 0x0000 = .unknown 0x0000

/-- The first three sentences of R69: the field `y` of `8xy6` and `8xyE` is ignored, `00C0` changes nothing, and `n = 0`
in `Dxyn` selects the super sprite. -/
def Obligations.IgnoredAndSpeciallyReadFields : Prop :=
  (∀ (x y z : Reg) (s : State), exec (.shr x y) s = exec (.shr x z) s ∧ exec (.shl x y) s = exec (.shl x z) s) ∧
  (∀ s : State, exec (decode 0x00C0) s = .next s) ∧
  ∀ x y : Reg, decode (wordXyn 0xD x y 0) = .drwSuper x y

/-! ## Fetch and step -/

/-- R81: a step runs the instruction whose two bytes, high byte first, stand at `PC mod 4096` and the address after it,
in the state where `PC` has been advanced by 2 modulo 4096 and nothing else has changed. -/
def Obligations.StepRunsTheInstructionAtPc : Prop :=
  ∀ (s : State) (i : Instr),
    decodeBytes (s.memRead (s.pc.toNat % 4096)) (s.memRead (s.pc.toNat % 4096 + 1)) = i →
    step s = exec i { s with pc := BitVec.ofNat 16 ((s.pc.toNat % 4096 + 2) % 4096) }

/-- No instruction, operand value, address or state makes a step fail or stop (spec/60_exceptions.md section 1), and no
sequence of host events does (section 4). That the events are these six, atomic and one at a time, is decision D2,
notes/assumptions/17.md. -/
def Obligations.NothingEverFaults : Prop :=
  (∀ (i : Instr) (s : State), ∃ t, exec i s = .next t) ∧ (∀ s : State, ∃ t, step s = .next t) ∧
  ∀ (es : List Event) (s : State), SafeRun es s

/-- The table of R108: how each instruction leaves `PC`, given the advanced value that fetch produced. That a skip, a
jump with offset and a rewind are not reduced modulo 4096 is decision D14, notes/assumptions/16.md. The condition of
`Ex9E` and `ExA1` is that of spec/46_keys_timers.md section 1, with the key taken modulo 16 by decision D9,
notes/assumptions/11.md. -/
def Obligations.PcAfterEveryInstruction : Prop :=
  ∀ s : State, ∃ t, step s = .next t ∧ t.pc = s.advancePc.pcAfter s.fetchInstr

/-- A word stored at the fetch address by `Fx55` is what the next fetch reads: self-modifying code needs no fence
(spec/20_memory.md section 6). -/
def Obligations.NextFetchSeesABlockStore : Prop :=
  ∀ (s : State) (x : Reg), 1 ≤ x → s.i.toNat % 4096 = s.pc.toNat % 4096 →
    ∃ t, exec (.storeRegs x) s = .next t ∧ t.fetchInstr = decodeBytes (s.reg 0) (s.reg 1)

/-! ## The invariant -/

/-- Every step keeps the invariant: memory stays canonical, stack entries stay addresses below 4096, `PC` stays one of
the values of R17, and a key wait in progress stays at its `Fx0A` (spec/10_state.md section 5, spec/46_keys_timers.md
section 3; the canonical form is the model's, notes/assumptions/14.md). -/
def Obligations.StepKeepsTheInvariant : Prop :=
  ∀ s t : State, Inv s → step s = .next t → Inv t

/-- The state after reset meets the invariant (the reset values of `STACK` and `KW` are decision D11). -/
def Obligations.ResetMeetsTheInvariant : Prop := Inv State.reset

/-- Every event of the interface, not the step alone, keeps the invariant, from every state that meets it, reached or
not; and so every state that any sequence of events leads to from reset meets it (spec/60_exceptions.md section 4,
spec/70_reset_and_hazards.md section 2, spec/46_keys_timers.md section 3). Rests on the reset values of `STACK` and `KW`
(D11, notes/assumptions/6.md), on the range of `PC` (D14, notes/assumptions/16.md) and on the model's canonical form
(notes/assumptions/14.md). -/
def Obligations.EveryEventKeepsTheInvariant : Prop :=
  (∀ (e : Event) (s t : State), Inv s → handle e s = .next t → Inv t) ∧ ∀ s : State, Reachable s → Inv s

/-- While a key wait is in progress every step executes the same `Fx0A` and changes nothing but `PC`, to the value it
already had modulo 4096 (spec/46_keys_timers.md, the busy-wait; the rewind modulo 65536 is decision D14). -/
def Obligations.WaitingStepsChangeNothing : Prop :=
  ∀ (s : State) (d : Reg), Inv s → s.kw = .awaitingRelease d →
    ∃ t, step s = .next t ∧ SameExcept [.pc] s t ∧ t.pc.toNat % 4096 = s.pc.toNat % 4096

/-- Two memories in canonical form that read the same at every address are the same data (the canonical form is the
model's, notes/assumptions/14.md; spec/20_memory.md section 2). -/
def Obligations.CanonicalMemoriesWithTheSameBytesAreEqual : Prop :=
  ∀ m n : Memory, m.wf = true → n.wf = true → (∀ a < 4096, m.read a = n.read a) → m = n

/-! ## What every instruction leaves alone -/

/-- Each instruction writes only the parts of the state the rules let it write: `MEM` only `Fx33` and `Fx55`, `I` only
`Annn`, `Fx1E`, `Fx29`, `Fx30`, the stack only `2nnn` and `00EE`, the timers only `Fx15` and `Fx18`, no key latch, `KW`
only `Fx0A`, `MODE` only `00FE` and `00FF`, the inactive buffer only a mode switch (spec/10_state.md sections 4 to 9,
spec/60_exceptions.md section 5). Rests on D13. The two model fields `draws` and `diag` are notes/assumptions/2.md and 5.md. -/
def Obligations.EveryInstructionKeepsTheOtherParts : Prop :=
  ∀ (i : Instr) (s t : State), exec i s = .next t → SameExcept (s.mayWrite i) s t

/-- Each instruction writes only its destination registers, and `VF` where the table of spec/10_state.md section 3 says
so. Rests on D13. -/
def Obligations.EveryInstructionKeepsTheOtherRegisters : Prop :=
  ∀ (i : Instr) (s t : State), exec i s = .next t → SameRegsExcept (regsMayWrite i) s t

/-- After an instruction that writes `VF` as a side effect, `VF` is 0 or 1, also when `x = F` (spec/10_state.md
section 3; the flag last is decision D4, notes/assumptions/9.md). -/
def Obligations.FlagIsZeroOrOne : Prop :=
  ∀ (i : Instr) (s : State), writesFlag i = true → ∃ t, exec i s = .next t ∧ (t.reg 15 = 0 ∨ t.reg 15 = 1)

/-- No step moves a timer down or samples a key: after a step `DT` and `ST` are as before unless the instruction is the
one that sets them, and no key latch has changed (R86's first two sentences; spec/40_fetch_decode_dispatch.md). -/
def Obligations.StepsNeitherTickNorSampleKeys : Prop :=
  ∀ s t : State, step s = .next t →
    t.key = s.key ∧ ((∀ x, s.fetchInstr ≠ .ldDtVx x) → t.dt = s.dt) ∧ ((∀ x, s.fetchInstr ≠ .ldStVx x) → t.st = s.st)

/-! ## Memory -/

/-- R41 and R42: a write changes the byte at its address modulo 4096 and nothing else, and a read gives the byte at its
address modulo 4096; no address is excluded. -/
def Obligations.MemoryReadsWhatWasWritten : Prop :=
  (∀ (s : State) (a : Nat), s.memRead a = s.memRead (a % 4096)) ∧
  ∀ (s : State) (a : Nat) (v : Byte), (s.memWrite a v).memRead a = v ∧
    (∀ b, b % 4096 ≠ a % 4096 → (s.memWrite a v).memRead b = s.memRead b) ∧
    SameExcept [.memory] s (s.memWrite a v)

/-! ## Family 0 -/

/-- R90: `00Cn` moves the rows of the active buffer down by `n` and clears the top `n`. -/
def Obligations.ScrollDownMovesRows : Prop :=
  ∀ (n : Nibble) (s : State), ∃ t, exec (.scd n) s = .next t ∧
    (∀ c r, r < s.height → t.pixel c r = (decide (n.toNat ≤ r) && s.pixel c (r - n.toNat))) ∧
    SameExcept [s.activePart] s t

/-- R91: `00E0` clears the active buffer and touches nothing else. -/
def Obligations.ClearBlanksTheActiveBuffer : Prop :=
  ∀ s : State, ∃ t, exec .cls s = .next t ∧ (∀ c r, t.pixel c r = false) ∧ SameExcept [s.activePart] s t

/-- R92: `00EE` steps `SP` back modulo 16 and loads `PC` from that entry, which stays in the stack. -/
def Obligations.ReturnPopsTheStack : Prop :=
  ∀ s : State, ∃ t, exec .ret s = .next t ∧ t.sp.val = (s.sp.val + 15) % 16 ∧ t.pc = s.stack[t.sp] ∧
    t.stack = s.stack ∧ SameExcept [.pc, .stack] s t

/-- R93: `00FB` moves the pixel of column `c` to column `c + 4`; columns 0 to 3 become dark, the rightmost 4 are lost. -/
def Obligations.ScrollRightMovesPixels : Prop :=
  ∀ s : State, ∃ t, exec .scr s = .next t ∧
    (∀ c r, c < s.width → t.pixel c r = (decide (4 ≤ c) && s.pixel (c - 4) r)) ∧ SameExcept [s.activePart] s t

/-- R94: `00FC` moves the pixel of column `c` to column `c - 4`; the rightmost 4 columns become dark. -/
def Obligations.ScrollLeftMovesPixels : Prop :=
  ∀ s : State, ∃ t, exec .scl s = .next t ∧
    (∀ c r, c < s.width → t.pixel c r = (decide (c + 4 < s.width) && s.pixel (c + 4) r)) ∧
    SameExcept [s.activePart] s t

/-- R95 and R96: a mode switch changes the mode and blanks the newly active buffer, leaving the other buffer as it is;
asked for the mode it is in, it changes nothing. -/
def Obligations.ModeSwitchBlanksTheNewBuffer : Prop :=
  (∀ s : State, s.mode = .highRes → ∃ t, exec .low s = .next t ∧ t.mode = .lowRes ∧ (∀ r : Fin 32, t.lo[r] = 0) ∧
    SameExcept [.mode, .lowBuffer] s t) ∧
  (∀ s : State, s.mode = .lowRes → exec .low s = .next s) ∧
  (∀ s : State, s.mode = .lowRes → ∃ t, exec .high s = .next t ∧ t.mode = .highRes ∧ (∀ r : Fin 64, t.hi[r] = 0) ∧
    SameExcept [.mode, .highBuffer] s t) ∧
  (∀ s : State, s.mode = .highRes → exec .high s = .next s)

/-- Returns walk down the ring of 16 entries: after `k + 1` returns in a row `SP` is `k + 1` entries back modulo 16 and
`PC` holds the entry there, so sixteen returns read all 16 entries and the seventeenth reads the first of them again
(spec/41_family0_display_control_return.md `00EE`, corner cases). -/
def Obligations.ReturnsWalkRoundTheStack : Prop :=
  ∀ (k : Nat) (s : State), ∃ t, execTimes .ret (k + 1) s = .next t ∧
    (t.sp.val + (k + 1)) % 16 = s.sp.val ∧ t.pc = s.stack[t.sp] ∧ SameExcept [.pc, .stack] s t ∧ t.stack = s.stack

/-! ## Control transfer -/

/-- `1nnn` loads `PC` with `nnn`, `Bnnn` with `V0 + nnn` (spec/42_control_transfer.md). That the sum keeps 16 bits is
decision D14, notes/assumptions/16.md. -/
def Obligations.JumpsLoadPc : Prop :=
  ∀ (nnn : Addr) (s : State),
    (∃ t, exec (.jp nnn) s = .next t ∧ t.pc.toNat = nnn.toNat ∧ SameExcept [.pc] s t) ∧
    ∃ t, exec (.jpV0 nnn) s = .next t ∧ t.pc.toNat = (s.reg 0).toNat + nnn.toNat ∧ SameExcept [.pc] s t

/-- R101: `2nnn` stores the advanced `PC` at `STACK[SP]`, moves `SP` on modulo 16 and jumps. -/
def Obligations.CallPushesTheReturnAddress : Prop :=
  ∀ (nnn : Addr) (s : State), ∃ t, exec (.call nnn) s = .next t ∧
    t.stack[s.sp] = s.pc ∧ (∀ k : Reg, k ≠ s.sp → t.stack[k] = s.stack[k]) ∧ t.sp.val = (s.sp.val + 1) % 16 ∧
    t.pc.toNat = nnn.toNat ∧ SameExcept [.pc, .stack] s t

/-- A return right after a call goes back to the instruction after it and leaves everything but the stack entry that was
used as before the call, at every depth of the stack (spec/42_control_transfer.md `2nnn`,
spec/41_family0_display_control_return.md `00EE`). -/
def Obligations.ReturnUndoesACall : Prop :=
  ∀ (nnn : Addr) (s : State), ∃ t u, exec (.call nnn) s = .next t ∧ exec .ret t = .next u ∧
    u.pc = s.pc ∧ u.sp = s.sp ∧ SameExcept [.stack] s u

/-- `3xkk` and `4xkk`: a taken skip adds 2 to `PC`, and a skip changes nothing else (spec/42_control_transfer.md). That
the sum keeps 16 bits is decision D14, notes/assumptions/16.md. -/
def Obligations.ImmediateSkips : Prop :=
  ∀ (x : Reg) (kk : Byte) (s : State),
    (∃ t, exec (.seImm x kk) s = .next t ∧ t.pc = (if s.reg x = kk then s.pc + 2 else s.pc) ∧ SameExcept [.pc] s t) ∧
    ∃ t, exec (.sneImm x kk) s = .next t ∧ t.pc = (if s.reg x ≠ kk then s.pc + 2 else s.pc) ∧ SameExcept [.pc] s t

/-- `5xy0` and `9xy0` compare two registers; the same registers always skip, or never (spec/42_control_transfer.md).
That `5xyn` and `9xyn` with `n != 0` are the catch-all is decision D3. -/
def Obligations.RegisterSkips : Prop :=
  (∀ (x y : Reg) (s : State),
    (∃ t, exec (.seReg x y) s = .next t ∧ t.pc = (if s.reg x = s.reg y then s.pc + 2 else s.pc) ∧
      SameExcept [.pc] s t) ∧
    ∃ t, exec (.sneReg x y) s = .next t ∧ t.pc = (if s.reg x ≠ s.reg y then s.pc + 2 else s.pc) ∧
      SameExcept [.pc] s t) ∧
  ∀ (x y : Reg) (n : Nibble), n ≠ 0 →
    decode (wordXyn 0x5 x y n) = .unknown (wordXyn 0x5 x y n) ∧ decode (wordXyn 0x9 x y n) = .unknown (wordXyn 0x9 x y n)

/-! ## Arithmetic and logic -/

/-- `6xkk`, `7xkk` and `8xy0`: load immediate, add immediate modulo 256, copy; no flag is written, and `VF` changes only
as the destination (spec/43_alu.md). That `7xkk` writes no carry is decision D13, notes/assumptions/10.md. -/
def Obligations.LoadAddImmediateAndCopy : Prop :=
  ∀ (x y : Reg) (kk : Byte) (s : State),
    (∃ t, exec (.ldImm x kk) s = .next t ∧ t.reg x = kk ∧ SameRegsExcept [x] s t ∧ SameExcept [.registers] s t) ∧
    (∃ t, exec (.addImm x kk) s = .next t ∧ (t.reg x).toNat = ((s.reg x).toNat + kk.toNat) % 256 ∧
      SameRegsExcept [x] s t ∧ SameExcept [.registers] s t) ∧
    ∃ t, exec (.ldReg x y) s = .next t ∧ t.reg x = s.reg y ∧ SameRegsExcept [x] s t ∧ SameExcept [.registers] s t

/-- R113, R114 and R115: the logic instructions write their result and then 0 to `VF`, always; with `x = F` the result is
lost, with `y = F` the operand is the old `VF`. -/
def Obligations.LogicInstructionsResetVf : Prop :=
  ∀ (x y : Reg) (s : State),
    (∃ t, exec (.orReg x y) s = .next t ∧ t.reg 15 = 0 ∧ (x ≠ 15 → t.reg x = s.reg x ||| s.reg y) ∧
      SameRegsExcept [x, 15] s t ∧ SameExcept [.registers] s t) ∧
    (∃ t, exec (.andReg x y) s = .next t ∧ t.reg 15 = 0 ∧ (x ≠ 15 → t.reg x = s.reg x &&& s.reg y) ∧
      SameRegsExcept [x, 15] s t ∧ SameExcept [.registers] s t) ∧
    ∃ t, exec (.xorReg x y) s = .next t ∧ t.reg 15 = 0 ∧ (x ≠ 15 → t.reg x = s.reg x ^^^ s.reg y) ∧
      SameRegsExcept [x, 15] s t ∧ SameExcept [.registers] s t

/-- `8xy4`: the sum modulo 256, and `VF` is 1 exactly when the sum is over 255 (spec/43_alu.md). That `VF` holds the carry
when `x = F` is decision D4, that operands are read first is D5 (notes/assumptions/9.md and 8.md). -/
def Obligations.AddSetsTheCarry : Prop :=
  ∀ (x y : Reg) (s : State), ∃ t, exec (.addReg x y) s = .next t ∧
    t.reg 15 = (if (s.reg x).toNat + (s.reg y).toNat > 255 then 1 else 0) ∧
    (x ≠ 15 → (t.reg x).toNat = ((s.reg x).toNat + (s.reg y).toNat) % 256) ∧
    SameRegsExcept [x, 15] s t ∧ SameExcept [.registers] s t

/-- `8xy5` and `8xy7`: the difference modulo 256, and `VF` is 1 exactly when the minuend is at least the subtrahend
(spec/43_alu.md). Rests on D4 and D5 as the statement about `8xy4` does. -/
def Obligations.SubtractSetsNotBorrow : Prop :=
  ∀ (x y : Reg) (s : State),
    (∃ t, exec (.sub x y) s = .next t ∧
      t.reg 15 = (if (s.reg x).toNat ≥ (s.reg y).toNat then 1 else 0) ∧
      (x ≠ 15 → (t.reg x).toNat = ((s.reg x).toNat + 256 - (s.reg y).toNat) % 256) ∧
      SameRegsExcept [x, 15] s t ∧ SameExcept [.registers] s t) ∧
    ∃ t, exec (.subn x y) s = .next t ∧
      t.reg 15 = (if (s.reg y).toNat ≥ (s.reg x).toNat then 1 else 0) ∧
      (x ≠ 15 → (t.reg x).toNat = ((s.reg y).toNat + 256 - (s.reg x).toNat) % 256) ∧
      SameRegsExcept [x, 15] s t ∧ SameExcept [.registers] s t

/-- `8xy6` and `8xyE`: half and double of `Vx`, whatever `y` is, and `VF` is the bit shifted out (spec/43_alu.md). Rests on
D4 as the statement about `8xy4` does. -/
def Obligations.ShiftsSetTheBitShiftedOut : Prop :=
  ∀ (x y : Reg) (s : State),
    (∃ t, exec (.shr x y) s = .next t ∧ (t.reg 15).toNat = (s.reg x).toNat % 2 ∧
      (x ≠ 15 → (t.reg x).toNat = (s.reg x).toNat / 2) ∧ SameRegsExcept [x, 15] s t ∧ SameExcept [.registers] s t) ∧
    ∃ t, exec (.shl x y) s = .next t ∧ (t.reg 15).toNat = (s.reg x).toNat / 128 ∧
      (x ≠ 15 → (t.reg x).toNat = 2 * (s.reg x).toNat % 256) ∧ SameRegsExcept [x, 15] s t ∧
      SameExcept [.registers] s t

/-- `Cxkk`: `V[x]` is a byte of the random source ANDed with `kk`, so no bit outside `kk` is ever set, and the source
moves on by one draw (spec/43_alu.md; D10). The byte is a free value, notes/assumptions/2.md: the statement holds for
every value of the source and of its counter. -/
def Obligations.RandomByteIsMasked : Prop :=
  ∀ (x : Reg) (kk : Byte) (s : State), ∃ t, exec (.rnd x kk) s = .next t ∧
    t.reg x = Config.rnd s.draws &&& kk ∧ t.reg x &&& ~~~kk = 0 ∧ t.draws = s.draws + 1 ∧
    SameRegsExcept [x] s t ∧ SameExcept [.registers, .draws] s t

/-! ## Index register and memory -/

/-- R125 and R126: `Annn` loads `I`, `Fx1E` adds `V[x]` to it modulo 65536; no flag is written. -/
def Obligations.LoadAndAddIndex : Prop :=
  (∀ (nnn : Addr) (s : State), ∃ t, exec (.ldI nnn) s = .next t ∧ t.i.toNat = nnn.toNat ∧ SameExcept [.index] s t) ∧
  ∀ (x : Reg) (s : State), ∃ t, exec (.addI x) s = .next t ∧
    t.i.toNat = (s.i.toNat + (s.reg x).toNat) % 65536 ∧ SameExcept [.index] s t

/-- `Fx29` and `Fx30`: `I` is the address of the glyph of the low digit of `V[x]`, 5 bytes a glyph from 0 and 10 bytes a
glyph from 80 (spec/44_index_memory.md; the spec marks both addresses as derived from its address map). -/
def Obligations.GlyphAddresses : Prop :=
  ∀ (x : Reg) (s : State),
    (∃ t, exec (.ldF x) s = .next t ∧ t.i.toNat = 5 * ((s.reg x).toNat % 16) ∧ SameExcept [.index] s t) ∧
    ∃ t, exec (.ldHf x) s = .next t ∧ t.i.toNat = 80 + 10 * ((s.reg x).toNat % 16) ∧ SameExcept [.index] s t

/-- `Fx33` stores the hundreds, tens and ones of `V[x]` as whole bytes at `I`, `I + 1`, `I + 2`, each modulo 4096;
every other byte stays (spec/44_index_memory.md). That `I` stays is decision D13, notes/assumptions/10.md. -/
def Obligations.DecimalDigitsAreStored : Prop :=
  ∀ (x : Reg) (s : State), ∃ t, exec (.ldB x) s = .next t ∧
    (t.memRead s.i.toNat).toNat = (s.reg x).toNat / 100 ∧
    (t.memRead (s.i.toNat + 1)).toNat = (s.reg x).toNat / 10 % 10 ∧
    (t.memRead (s.i.toNat + 2)).toNat = (s.reg x).toNat % 10 ∧
    SameMemoryExcept [s.effectiveAddress 0, s.effectiveAddress 1, s.effectiveAddress 2] s t ∧
    SameExcept [.memory] s t

/-- `Fx55` stores `V[0]` to `V[x]` at `I` upward, each address modulo 4096; every other byte stays
(spec/44_index_memory.md). That `I` stays is decision D13, notes/assumptions/10.md. -/
def Obligations.RegistersAreStored : Prop :=
  ∀ (x : Reg) (s : State), ∃ t, exec (.storeRegs x) s = .next t ∧
    (∀ k : Reg, k ≤ x → t.memRead (s.i.toNat + k.val) = s.reg k) ∧
    SameMemoryExcept ((List.range (x.val + 1)).map s.effectiveAddress) s t ∧ SameExcept [.memory] s t

/-- `Fx65` loads `V[0]` to `V[x]` from `I` upward; the registers above, memory and (decision D13) `I` stay
(spec/44_index_memory.md; notes/assumptions/10.md). -/
def Obligations.RegistersAreLoaded : Prop :=
  ∀ (x : Reg) (s : State), ∃ t, exec (.loadRegs x) s = .next t ∧
    (∀ k : Reg, k ≤ x → t.reg k = s.memRead (s.i.toNat + k.val)) ∧
    (∀ k : Reg, x < k → t.reg k = s.reg k) ∧ SameExcept [.registers] s t

/-- Registers stored by `Fx55` come back by `Fx65`, whatever the registers were set to in between (spec/44_index_memory.md;
rests on D13). -/
def Obligations.StoredRegistersComeBack : Prop :=
  ∀ (x : Reg) (s : State), ∃ t, exec (.storeRegs x) s = .next t ∧
    ∀ v : Vector Byte 16, ∃ u, exec (.loadRegs x) { t with v := v } = .next u ∧
      (∀ k : Reg, k ≤ x → u.reg k = s.reg k) ∧ ∀ k : Reg, x < k → u.reg k = v[k]

/-! ## Draw -/

/-- `Dxyn` toggles exactly the screen pixels under the lit pixels of the sprite, whose row `r` is the byte at
`(I + r) mod 4096` with bit 7 leftmost, whose start coordinate wraps and whose body is clipped; `VF` is 1 exactly when a
lit sprite pixel met a lit screen pixel, else 0. In both display modes, for every `x` and `y` (spec/45_draw.md). That
`I` stays is decision D13, notes/assumptions/10.md; that a row is 8 pixels wide is C1, notes/assumptions/20.md. -/
def Obligations.DrawTogglesTheClippedSprite : Prop :=
  ∀ (x y : Reg) (n : Nibble) (s : State), ∃ t, exec (.drw x y n) s = .next t ∧
    (∀ c r, c < s.width → r < s.height →
      t.pixel c r = (s.pixel c r ^^ s.spriteAt x y n.toNat (fun k => s.memRead (s.i.toNat + k)) c r)) ∧
    ((t.reg 15 = 1 ∧ ∃ c r, c < s.width ∧ r < s.height ∧ s.pixel c r = true ∧
        s.spriteAt x y n.toNat (fun k => s.memRead (s.i.toNat + k)) c r = true) ∨
      (t.reg 15 = 0 ∧ ∀ c r, c < s.width → r < s.height → s.pixel c r = true →
        s.spriteAt x y n.toNat (fun k => s.memRead (s.i.toNat + k)) c r = false)) ∧
    SameRegsExcept [15] s t ∧ SameExcept [.registers, s.activePart] s t

/-- `Dxy0` does the same with a sprite of `SUPER_ROWS` rows of 16 pixels, high byte first, in both display modes
(spec/45_draw.md). The row count (D6), the byte order (D7) and `LowRes` (D8) are the spec's decisions,
notes/assumptions/3.md and 7.md; that `I` stays is D13, notes/assumptions/10.md; that a row is 16 pixels wide is C1,
notes/assumptions/20.md. -/
def Obligations.SuperDrawTogglesTheClippedSprite : Prop :=
  ∀ (x y : Reg) (s : State), ∃ t, exec (.drwSuper x y) s = .next t ∧
    (∀ c r, c < s.width → r < s.height → t.pixel c r = (s.pixel c r ^^ s.spriteAt x y Config.superRows
      (fun k => s.memRead (s.i.toNat + 2 * k) ++ s.memRead (s.i.toNat + 2 * k + 1)) c r)) ∧
    ((t.reg 15 = 1 ∧ ∃ c r, c < s.width ∧ r < s.height ∧ s.pixel c r = true ∧ s.spriteAt x y Config.superRows
        (fun k => s.memRead (s.i.toNat + 2 * k) ++ s.memRead (s.i.toNat + 2 * k + 1)) c r = true) ∨
      (t.reg 15 = 0 ∧ ∀ c r, c < s.width → r < s.height → s.pixel c r = true → s.spriteAt x y Config.superRows
        (fun k => s.memRead (s.i.toNat + 2 * k) ++ s.memRead (s.i.toNat + 2 * k + 1)) c r = false)) ∧
    SameRegsExcept [15] s t ∧ SameExcept [.registers, s.activePart] s t

/-- Drawing the same sprite, of either width, twice at the same place restores the screen, and the second draw reports a
collision exactly when the first one lit some pixel (spec/45_draw.md section 3). Coordinates in `VF` are left out,
since the first draw overwrites them and the second one is elsewhere. The spec's own sentence "reports VF = 1 on the
second draw if the sprite has any visible lit pixel" is not what its procedure does when every such pixel was lit
already: notes/assumptions/15.md. Rests on `I` staying (D13, notes/assumptions/10.md), and for `Dxy0` on D6, D7 and D8
(notes/assumptions/3.md and 7.md); the widths are those of C1 (notes/assumptions/20.md). -/
def Obligations.DrawingTwiceRestoresTheScreen : Prop :=
  ∀ (x y : Reg) (n : Nibble) (i : Instr) (s : State), x ≠ 15 → y ≠ 15 → i = .drw x y n ∨ i = .drwSuper x y →
    ∃ t u, exec i s = .next t ∧ exec i t = .next u ∧ u.lo = s.lo ∧ u.hi = s.hi ∧
      (u.reg 15 = 1 ∧ (∃ c r, c < s.width ∧ r < s.height ∧ s.pixel c r = false ∧ t.pixel c r = true) ∨
        u.reg 15 = 0 ∧ ∀ c r, c < s.width → r < s.height → t.pixel c r = true → s.pixel c r = true)

/-! ## Keys and timers -/

/-- `Ex9E` and `ExA1` skip on the latch of the key whose number is the low digit of `V[x]` (spec/46_keys_timers.md; the
reduction modulo 16 is decision D9, notes/assumptions/11.md). -/
def Obligations.KeySkips : Prop :=
  ∀ (x k : Reg) (s : State), k.val = (s.reg x).toNat % 16 →
    (∃ t, exec (.skp x) s = .next t ∧ t.pc = (if s.key[k] = true then s.pc + 2 else s.pc) ∧ SameExcept [.pc] s t) ∧
    ∃ t, exec (.sknp x) s = .next t ∧ t.pc = (if s.key[k] = false then s.pc + 2 else s.pc) ∧ SameExcept [.pc] s t

/-- R147, R148 and R149: `Fx07` reads `DT`, `Fx15` and `Fx18` write `DT` and `ST`. -/
def Obligations.TimerAccess : Prop :=
  ∀ (x : Reg) (s : State),
    (∃ t, exec (.ldVxDt x) s = .next t ∧ t.reg x = s.dt ∧ SameRegsExcept [x] s t ∧ SameExcept [.registers] s t) ∧
    (∃ t, exec (.ldDtVx x) s = .next t ∧ t.dt = s.reg x ∧ SameExcept [.delayTimer] s t) ∧
    ∃ t, exec (.ldStVx x) s = .next t ∧ t.st = s.reg x ∧ SameExcept [.soundTimer] s t

/-- `Fx0A`: from `Idle` it records `x` and rewinds, while waiting it rewinds and keeps the recorded register, from
`Captured` it returns to `Idle` without rewinding; it never writes a register or reads a key (spec/46_keys_timers.md
section 3). The rewind modulo 65536 is decision D14. -/
def Obligations.KeyWaitInstruction : Prop :=
  ∀ (x : Reg) (s : State),
    (s.kw = .idle → ∃ t, exec (.ldVxK x) s = .next t ∧ t.kw = .awaitingRelease x ∧ t.pc = s.pc - 2 ∧
      SameExcept [.pc, .keyWait] s t) ∧
    (∀ d, s.kw = .awaitingRelease d → ∃ t, exec (.ldVxK x) s = .next t ∧ t.pc = s.pc - 2 ∧ SameExcept [.pc] s t) ∧
    (s.kw = .captured → ∃ t, exec (.ldVxK x) s = .next t ∧ t.kw = .idle ∧ SameExcept [.keyWait] s t)

/-- The key-wait machine under everything but its own instruction: another step, a press, a tick and an observation keep
its state, a release moves it only from `AwaitingRelease`, and a reset or a successful load returns it to `Idle`
(spec/46_keys_timers.md section 3, the transition table). The conduct on a repeated or second release is decisions D15
and D16, notes/assumptions/13.md; that `Idle` is the reset value is decision D11, notes/assumptions/6.md. -/
def Obligations.KeyWaitTransitions : Prop :=
  (∀ s t : State, step s = .next t → (∀ x, s.fetchInstr ≠ .ldVxK x) → t.kw = s.kw) ∧
  (∀ (s : State) (k : Reg), (keyEvent k true s).kw = s.kw) ∧
  (∀ (s : State) (k d : Reg), s.kw = .awaitingRelease d → (keyEvent k false s).kw = .captured) ∧
  (∀ (s : State) (k : Reg), s.kw = .captured ∨ s.kw = .idle →
    (keyEvent k false s).kw = s.kw ∧ ∀ r, (keyEvent k false s).reg r = s.reg r) ∧
  (∀ s : State, (tick s).kw = s.kw ∧ handle .observe s = .next s) ∧
  (∀ s : State, (resetEvent s).kw = .idle) ∧
  ∀ (rom : List Byte) (s : State), rom.length ≤ 3584 → (load rom s).2.kw = .idle

/-- R156: while a program is blocked on `Fx0A`, a press of a key sets its latch; its release clears the latch, writes the
key's number into the destination register and makes the wait `Captured`; the next step executes the `Fx0A`, returns to
`Idle` and goes on to the following instruction. Nothing else changes. -/
def Obligations.KeyWaitEndsOnARelease : Prop :=
  ∀ (s : State) (d k : Reg), s.kw = .awaitingRelease d → s.fetchInstr = .ldVxK d → s.keyDown k = false →
    ∃ p u t, handle (.keyEvent k true) s = .next p ∧ p.keyDown k = true ∧ SameExcept [.keys] s p ∧
      handle (.keyEvent k false) p = .next u ∧ u.keyDown k = false ∧ (u.reg d).toNat = k.val ∧ u.kw = .captured ∧
      handle .step u = .next t ∧ (t.reg d).toNat = k.val ∧ t.kw = .idle ∧
      t.pc.toNat = (s.pc.toNat % 4096 + 2) % 4096 ∧ SameRegsExcept [d] s t ∧
      SameExcept [.registers, .pc, .keyWait] s t

/-- A key event latches what it reports, and on a release while `AwaitingRelease(d)` writes the key's number to `V[d]`;
nothing else changes (spec/60_exceptions.md section 4, spec/46_keys_timers.md section 3). Decisions D15 and D16,
notes/assumptions/13.md. -/
def Obligations.KeyEventLatchesAndCaptures : Prop :=
  ∀ (s : State) (k : Reg) (isDown : Bool),
    (∀ j : Reg, (keyEvent k isDown s).key[j] = if j = k then isDown else s.key[j]) ∧
    (∀ d, s.kw = .awaitingRelease d → isDown = false →
      ((keyEvent k isDown s).reg d).toNat = k.val ∧ (keyEvent k isDown s).kw = .captured ∧
      SameRegsExcept [d] s (keyEvent k isDown s) ∧ SameExcept [.keys, .registers, .keyWait] s (keyEvent k isDown s)) ∧
    ((∀ d, s.kw ≠ .awaitingRelease d) ∨ isDown = true → SameExcept [.keys] s (keyEvent k isDown s))

/-! ## Host events, reset, load -/

/-- R171: a tick counts each timer down by one, never below zero, and does nothing else. -/
def Obligations.TickCountsBothTimersDown : Prop :=
  ∀ s : State, ∃ t, handle .tick s = .next t ∧
    t.dt.toNat = s.dt.toNat - 1 ∧ t.st.toNat = s.st.toNat - 1 ∧ SameExcept [.delayTimer, .soundTimer] s t

/-- After any number of ticks with no step between them each timer has lost that many counts, down to zero at most
(spec/60_exceptions.md section 4). -/
def Obligations.TimersAfterManyTicks : Prop :=
  ∀ (n : Nat) (s : State), ∃ t, handleAll (List.replicate n .tick) s = .next t ∧
    t.dt.toNat = s.dt.toNat - n ∧ t.st.toNat = s.st.toNat - n ∧ SameExcept [.delayTimer, .soundTimer] s t

/-- The reset values the source states: registers, timers and buffers zero, `PC` at `0x200`, the two fonts in place
(spec/70_reset_and_hazards.md section 1, the rows whose basis is the source). The font bytes are free values,
notes/assumptions/1.md. -/
def Obligations.ResetValuesOfTheSource : Prop :=
  (∀ r, State.reset.reg r = 0) ∧ State.reset.pc = 0x200 ∧ State.reset.dt = 0 ∧ State.reset.st = 0 ∧
  (∀ r : Fin 32, State.reset.lo[r] = 0) ∧ (∀ r : Fin 64, State.reset.hi[r] = 0) ∧
  (∀ k : Fin 80, State.reset.memRead k.val = Config.fontLo k) ∧
  ∀ k : Fin 160, State.reset.memRead (80 + k.val) = Config.fontHi k

/-- The reset values that are the spec's decision D11: `I`, the stack, the key latches, the key wait, the mode and the
memory outside the fonts (spec/92_eei_decisions.md D11; notes/assumptions/6.md). -/
def Obligations.ResetValuesOfDecisionD11 : Prop :=
  State.reset.i = 0 ∧ (∀ k : Reg, State.reset.stack[k] = 0) ∧ State.reset.sp = 0 ∧
  (∀ k, State.reset.keyDown k = false) ∧ State.reset.kw = .idle ∧ State.reset.mode = .lowRes ∧
  ∀ a, 240 ≤ a → a < 4096 → State.reset.memRead a = 0

/-- `Reset`, in every state, puts every part of the machine at its reset value; a load of a program that fits, in every
state, does the same and puts the program at `0x200`, every other byte being as after reset, whatever ran before
(spec/70_reset_and_hazards.md sections 1 and 2; D11 and D19, notes/assumptions/6.md and 19.md). The model's own fields
`draws` and `diag` go on, notes/assumptions/2.md and 5.md. -/
def Obligations.ResetAndLoadStartAfresh : Prop :=
  (∀ s : State, ∃ t, handle .reset s = .next t ∧ SameExcept [.draws, .diag] State.reset t ∧ t.mem = State.reset.mem ∧
    t.draws = s.draws ∧ t.diag = s.diag) ∧
  ∀ (rom : List Byte) (s : State), rom.length ≤ 3584 →
    (load rom s).1 = true ∧ handle (.load rom) s = .next (load rom s).2 ∧
    (∀ k (hk : k < rom.length), (load rom s).2.memRead (0x200 + k) = rom[k]) ∧
    (∀ a < 4096, a < 0x200 ∨ 0x200 + rom.length ≤ a → (load rom s).2.memRead a = State.reset.memRead a) ∧
    SameExcept [.memory, .draws, .diag] State.reset (load rom s).2 ∧
    (load rom s).2.draws = s.draws ∧ (load rom s).2.diag = s.diag

/-- R196: a load of more than 3584 bytes fails and changes nothing. -/
def Obligations.OversizeLoadChangesNothing : Prop :=
  ∀ (rom : List Byte) (s : State), 3584 < rom.length → load rom s = (false, s) ∧ handle (.load rom) s = .next s

/-- The catch-all reports the word and changes nothing of the machine; `PC` keeps the advanced value
(spec/60_exceptions.md section 1). What the report holds is decision D17, and the trace that holds it is the model's own
field, notes/assumptions/5.md. -/
def Obligations.UnknownWordsAreReportedNoOps : Prop :=
  ∀ (op : Word) (s : State), ∃ t, exec (.unknown op) s = .next t ∧ t.diag = s.diag ++ [op] ∧ SameExcept [.diag] s t

/-- Observing shows the mode, the picture of the active buffer, exactly as high and as wide as it is, and whether `ST` is
above zero, and changes nothing (spec/60_exceptions.md section 5; D21 and D22). -/
def Obligations.ObservationShowsTheActiveBuffer : Prop :=
  ∀ s : State, handle .observe s = .next s ∧ (observe s).mode = s.mode ∧
    ((observe s).sound = true ↔ 0 < s.st.toNat) ∧ (observe s).picture.length = s.height ∧
    (∀ row ∈ (observe s).picture, row.length = s.width) ∧
    ∀ c r, c < s.width → r < s.height →
      ((observe s).picture[r]?.bind fun row => row[c]?) = some (s.pixel c r)
end

