-- ==== Sys2Proof/Laws/Memory.lean ====
section
/-! SUPPORT. Memory: what a read gives after a write, and that every operation keeps the canonical form. -/

namespace Sys2Proof.Machine

variable {m n : Memory} {a b low : Nat} {u v : Byte}

/-! ## Lookup -/

@[simp] theorem Memory.lookup_insert (m : Memory) (a : Nat) (v : Byte) (b : Nat) :
    (m.insert a v).lookup b = if a = b then some v else m.lookup b := by
  induction m with
  | nil => simp [Memory.insert, Memory.lookup]
  | cons c m ih =>
    obtain ⟨c, u⟩ := c
    simp only [Memory.insert]
    split
    · simp [Memory.lookup]
    · split
      · subst_vars; by_cases h : c = b <;> simp [Memory.lookup, h]
      · simp only [Memory.lookup, ih]
        split <;> split <;> simp_all

/-- An address below every entry of a canonical memory is not listed. -/
theorem Memory.lookup_below (h : m.wfFrom low = true) (hb : b < low) : m.lookup b = none := by
  induction m generalizing low with
  | nil => rfl
  | cons c m ih =>
    obtain ⟨c, u⟩ := c
    simp only [Memory.wfFrom, Bool.and_eq_true, decide_eq_true_eq] at h
    have : c ≠ b := by omega
    simp [Memory.lookup, this, ih h.2 (by omega)]

@[simp] theorem Memory.lookup_erase (m : Memory) (a b : Nat) :
    (m.erase a).lookup b = if a = b then none else m.lookup b := by
  induction m with
  | nil => simp [Memory.erase, Memory.lookup]
  | cons c m ih =>
    obtain ⟨c, u⟩ := c
    simp only [Memory.erase]
    split
    · subst_vars
      rw [ih]
      by_cases hb : c = b <;> simp [Memory.lookup, hb]
    · simp only [Memory.lookup, ih]
      split <;> split <;> simp_all

/-! ## The canonical form -/

theorem Memory.wfFrom_mono (h : m.wfFrom low = true) (hle : b ≤ low) : m.wfFrom b = true := by
  cases m with
  | nil => rfl
  | cons c m =>
    obtain ⟨c, u⟩ := c
    simp only [Memory.wfFrom, Bool.and_eq_true, decide_eq_true_eq] at h ⊢
    exact ⟨⟨⟨by omega, h.1.1.2⟩, h.1.2⟩, h.2⟩

theorem Memory.wfFrom_insert (h : m.wfFrom low = true) (ha : low ≤ a) (hs : a < Config.memSize)
    (hv : v ≠ Memory.initial a) : (m.insert a v).wfFrom low = true := by
  induction m generalizing low with
  | nil => simp [Memory.insert, Memory.wfFrom, ha, hs, hv]
  | cons c m ih =>
    obtain ⟨c, u⟩ := c
    simp only [Memory.wfFrom, Bool.and_eq_true, decide_eq_true_eq] at h
    simp only [Memory.insert]
    split
    · simp only [Memory.wfFrom, Bool.and_eq_true, decide_eq_true_eq, bne_iff_ne]
      exact ⟨⟨⟨ha, hs⟩, hv⟩, ⟨⟨by omega, h.1.1.2⟩, by simpa using h.1.2⟩, h.2⟩
    · split
      · subst_vars
        simp only [Memory.wfFrom, Bool.and_eq_true, decide_eq_true_eq, bne_iff_ne]
        exact ⟨⟨⟨ha, hs⟩, hv⟩, h.2⟩
      · simp only [Memory.wfFrom, Bool.and_eq_true, decide_eq_true_eq]
        exact ⟨h.1, ih h.2 (by omega)⟩

theorem Memory.wfFrom_erase (h : m.wfFrom low = true) : (m.erase a).wfFrom low = true := by
  induction m generalizing low with
  | nil => rfl
  | cons c m ih =>
    obtain ⟨c, u⟩ := c
    simp only [Memory.wfFrom, Bool.and_eq_true, decide_eq_true_eq] at h
    simp only [Memory.erase]
    split
    · exact Memory.wfFrom_mono (ih h.2) (by omega)
    · simp only [Memory.wfFrom, Bool.and_eq_true, decide_eq_true_eq]
      exact ⟨h.1, ih h.2⟩

@[simp] theorem Memory.wf_nil : Memory.wf [] = true := rfl

/-- A write keeps the canonical form. -/
theorem Memory.wf_write (h : m.wf = true) (a : Nat) (v : Byte) : (m.write a v).wf = true := by
  simp only [Memory.write]
  split
  · exact Memory.wfFrom_erase h
  · exact Memory.wfFrom_insert h (Nat.zero_le _) (Nat.mod_lt _ (by decide)) ‹_›

/-- A block store keeps the canonical form. -/
theorem Memory.wf_writeBytes (h : m.wf = true) (a : Nat) (bs : List Byte) : (m.writeBytes a bs).wf = true := by
  induction bs generalizing m a with
  | nil => exact h
  | cons b bs ih => exact ih (Memory.wf_write h a b) (a + 1)

/-! ## What an unlisted address reads as -/

theorem Memory.initial_fontLo (k : Fin 80) : Memory.initial k.val = Config.fontLo k := by
  simp only [Memory.initial, k.isLt, dite_true]

theorem Memory.initial_fontHi (k : Fin 160) : Memory.initial (80 + k.val) = Config.fontHi k := by
  have hlo : ¬ 80 + k.val < 80 := by omega
  have hhi : 80 + k.val < 240 := by omega
  have hk : (⟨80 + k.val - 80, by omega⟩ : Fin 160) = k := Fin.ext (by simp)
  simp only [Memory.initial, dif_neg hlo, dif_pos hhi, hk]

theorem Memory.initial_rest (h : 240 ≤ a) : Memory.initial a = 0 := by
  have hlo : ¬ a < 80 := by omega
  have hhi : ¬ a < 240 := by omega
  simp only [Memory.initial, dif_neg hlo, dif_neg hhi]

/-- A memory that lists nothing reads as the reset contents. -/
theorem Memory.read_nil (h : a < 4096) : Memory.read [] a = Memory.initial a := by
  simp only [Memory.read, Memory.lookup, Config.memSize, Nat.mod_eq_of_lt h]

/-! ## Read after write -/

@[simp] theorem Memory.read_mod (m : Memory) (a : Nat) : m.read (a % Config.memSize) = m.read a := by
  simp [Memory.read]

/-- What a read gives after a write: the value at the written address modulo 4096, the old byte elsewhere. -/
theorem Memory.read_write (m : Memory) (a : Nat) (v : Byte) (b : Nat) :
    (m.write a v).read b = if a % Config.memSize = b % Config.memSize then v else m.read b := by
  simp only [Memory.read, Memory.write]
  generalize a % Config.memSize = p
  generalize b % Config.memSize = q
  by_cases hv : v = Memory.initial p <;> by_cases hpq : p = q <;> simp_all

/-- What a read gives after a block store of at most 4096 bytes. -/
theorem Memory.read_writeBytes (m : Memory) (a : Nat) (bs : List Byte) (hlen : bs.length ≤ Config.memSize)
    (b : Nat) (v : Byte) :
    (m.writeBytes a bs).read b = v ↔
      (∃ i, ∃ hi : i < bs.length, (a + i) % Config.memSize = b % Config.memSize ∧ bs[i] = v) ∨
      ((∀ i < bs.length, (a + i) % Config.memSize ≠ b % Config.memSize) ∧ m.read b = v) := by
  induction bs generalizing m a with
  | nil => simp [Memory.writeBytes]
  | cons c bs ih =>
    have hlen' : bs.length ≤ Config.memSize := by simp at hlen; omega
    rw [Memory.writeBytes, ih (m.write a c) (a + 1) hlen', Memory.read_write]
    have shift : ∀ i, (a + 1 + i) % Config.memSize = (a + (i + 1)) % Config.memSize := by
      intro i; congr 1; omega
    simp only [shift]
    constructor
    · rintro (⟨i, hi, hb, hv⟩ | ⟨hne, hv⟩)
      · exact .inl ⟨i + 1, by simpa using hi, hb, by simpa using hv⟩
      · split at hv
        · exact .inl ⟨0, by simp, by simpa using ‹_›, by simpa using hv⟩
        · refine .inr ⟨fun i hi => ?_, hv⟩
          cases i with
          | zero => simpa using ‹¬_›
          | succ i => exact hne i (by simpa using hi)
    · rintro (⟨i, hi, hb, hv⟩ | ⟨hne, hv⟩)
      · cases i with
        | zero =>
          refine .inr ⟨fun i hi => ?_, ?_⟩
          · simp only [List.length_cons, Config.memSize] at *; omega
          · simp at hb; simpa [hb] using hv
        | succ i => exact .inl ⟨i, by simpa using hi, hb, by simpa using hv⟩
      · refine .inr ⟨fun i hi => hne (i + 1) (by simpa using hi), ?_⟩
        have h0 := hne 0 (by simp)
        simp at h0; simpa [h0] using hv

/-- A byte of the block, read back. -/
theorem Memory.read_writeBytes_inside (m : Memory) (a : Nat) (bs : List Byte)
    (hlen : bs.length ≤ Config.memSize) (i : Nat) (hi : i < bs.length) :
    (m.writeBytes a bs).read (a + i) = bs[i] :=
  (Memory.read_writeBytes m a bs hlen _ _).2 (.inl ⟨i, hi, rfl, rfl⟩)

/-- A byte outside the block is unchanged. -/
theorem Memory.read_writeBytes_outside (m : Memory) (a : Nat) (bs : List Byte)
    (hlen : bs.length ≤ Config.memSize) (b : Nat)
    (hb : ∀ i < bs.length, (a + i) % Config.memSize ≠ b % Config.memSize) : (m.writeBytes a bs).read b = m.read b :=
  (Memory.read_writeBytes m a bs hlen _ _).2 (.inr ⟨hb, rfl⟩)

end Sys2Proof.Machine
end

