-- ==== Sys2Proof/Laws/State.lean ====
section
/-! SUPPORT. One lemma for each field of `State` under each named update, so that no proof unfolds an update. -/

namespace Sys2Proof.Machine.State

/-! ## memWrite -/

@[simp] theorem memWrite_mem (s : State) (a : Nat) (u : Byte) : (s.memWrite a u).mem = s.mem.write a u := rfl
@[simp] theorem memWrite_v (s : State) (a : Nat) (u : Byte) : (s.memWrite a u).v = s.v := rfl
@[simp] theorem memWrite_i (s : State) (a : Nat) (u : Byte) : (s.memWrite a u).i = s.i := rfl
@[simp] theorem memWrite_pc (s : State) (a : Nat) (u : Byte) : (s.memWrite a u).pc = s.pc := rfl
@[simp] theorem memWrite_stack (s : State) (a : Nat) (u : Byte) : (s.memWrite a u).stack = s.stack := rfl
@[simp] theorem memWrite_sp (s : State) (a : Nat) (u : Byte) : (s.memWrite a u).sp = s.sp := rfl
@[simp] theorem memWrite_dt (s : State) (a : Nat) (u : Byte) : (s.memWrite a u).dt = s.dt := rfl
@[simp] theorem memWrite_st (s : State) (a : Nat) (u : Byte) : (s.memWrite a u).st = s.st := rfl
@[simp] theorem memWrite_key (s : State) (a : Nat) (u : Byte) : (s.memWrite a u).key = s.key := rfl
@[simp] theorem memWrite_kw (s : State) (a : Nat) (u : Byte) : (s.memWrite a u).kw = s.kw := rfl
@[simp] theorem memWrite_mode (s : State) (a : Nat) (u : Byte) : (s.memWrite a u).mode = s.mode := rfl
@[simp] theorem memWrite_lo (s : State) (a : Nat) (u : Byte) : (s.memWrite a u).lo = s.lo := rfl
@[simp] theorem memWrite_hi (s : State) (a : Nat) (u : Byte) : (s.memWrite a u).hi = s.hi := rfl
@[simp] theorem memWrite_draws (s : State) (a : Nat) (u : Byte) : (s.memWrite a u).draws = s.draws := rfl
@[simp] theorem memWrite_diag (s : State) (a : Nat) (u : Byte) : (s.memWrite a u).diag = s.diag := rfl

/-! ## storeBytes -/

@[simp] theorem storeBytes_mem (s : State) (a : Nat) (bs : List Byte) : (s.storeBytes a bs).mem = s.mem.writeBytes a bs := rfl
@[simp] theorem storeBytes_v (s : State) (a : Nat) (bs : List Byte) : (s.storeBytes a bs).v = s.v := rfl
@[simp] theorem storeBytes_i (s : State) (a : Nat) (bs : List Byte) : (s.storeBytes a bs).i = s.i := rfl
@[simp] theorem storeBytes_pc (s : State) (a : Nat) (bs : List Byte) : (s.storeBytes a bs).pc = s.pc := rfl
@[simp] theorem storeBytes_stack (s : State) (a : Nat) (bs : List Byte) : (s.storeBytes a bs).stack = s.stack := rfl
@[simp] theorem storeBytes_sp (s : State) (a : Nat) (bs : List Byte) : (s.storeBytes a bs).sp = s.sp := rfl
@[simp] theorem storeBytes_dt (s : State) (a : Nat) (bs : List Byte) : (s.storeBytes a bs).dt = s.dt := rfl
@[simp] theorem storeBytes_st (s : State) (a : Nat) (bs : List Byte) : (s.storeBytes a bs).st = s.st := rfl
@[simp] theorem storeBytes_key (s : State) (a : Nat) (bs : List Byte) : (s.storeBytes a bs).key = s.key := rfl
@[simp] theorem storeBytes_kw (s : State) (a : Nat) (bs : List Byte) : (s.storeBytes a bs).kw = s.kw := rfl
@[simp] theorem storeBytes_mode (s : State) (a : Nat) (bs : List Byte) : (s.storeBytes a bs).mode = s.mode := rfl
@[simp] theorem storeBytes_lo (s : State) (a : Nat) (bs : List Byte) : (s.storeBytes a bs).lo = s.lo := rfl
@[simp] theorem storeBytes_hi (s : State) (a : Nat) (bs : List Byte) : (s.storeBytes a bs).hi = s.hi := rfl
@[simp] theorem storeBytes_draws (s : State) (a : Nat) (bs : List Byte) : (s.storeBytes a bs).draws = s.draws := rfl
@[simp] theorem storeBytes_diag (s : State) (a : Nat) (bs : List Byte) : (s.storeBytes a bs).diag = s.diag := rfl

/-! ## setReg -/

@[simp] theorem setReg_mem (s : State) (x : Reg) (b : Byte) : (s.setReg x b).mem = s.mem := rfl
@[simp] theorem setReg_v (s : State) (x : Reg) (b : Byte) : (s.setReg x b).v = s.v.set x b := rfl
@[simp] theorem setReg_i (s : State) (x : Reg) (b : Byte) : (s.setReg x b).i = s.i := rfl
@[simp] theorem setReg_pc (s : State) (x : Reg) (b : Byte) : (s.setReg x b).pc = s.pc := rfl
@[simp] theorem setReg_stack (s : State) (x : Reg) (b : Byte) : (s.setReg x b).stack = s.stack := rfl
@[simp] theorem setReg_sp (s : State) (x : Reg) (b : Byte) : (s.setReg x b).sp = s.sp := rfl
@[simp] theorem setReg_dt (s : State) (x : Reg) (b : Byte) : (s.setReg x b).dt = s.dt := rfl
@[simp] theorem setReg_st (s : State) (x : Reg) (b : Byte) : (s.setReg x b).st = s.st := rfl
@[simp] theorem setReg_key (s : State) (x : Reg) (b : Byte) : (s.setReg x b).key = s.key := rfl
@[simp] theorem setReg_kw (s : State) (x : Reg) (b : Byte) : (s.setReg x b).kw = s.kw := rfl
@[simp] theorem setReg_mode (s : State) (x : Reg) (b : Byte) : (s.setReg x b).mode = s.mode := rfl
@[simp] theorem setReg_lo (s : State) (x : Reg) (b : Byte) : (s.setReg x b).lo = s.lo := rfl
@[simp] theorem setReg_hi (s : State) (x : Reg) (b : Byte) : (s.setReg x b).hi = s.hi := rfl
@[simp] theorem setReg_draws (s : State) (x : Reg) (b : Byte) : (s.setReg x b).draws = s.draws := rfl
@[simp] theorem setReg_diag (s : State) (x : Reg) (b : Byte) : (s.setReg x b).diag = s.diag := rfl

/-! ## setI -/

@[simp] theorem setI_mem (s : State) (w : Word) : (s.setI w).mem = s.mem := rfl
@[simp] theorem setI_v (s : State) (w : Word) : (s.setI w).v = s.v := rfl
@[simp] theorem setI_i (s : State) (w : Word) : (s.setI w).i = w := rfl
@[simp] theorem setI_pc (s : State) (w : Word) : (s.setI w).pc = s.pc := rfl
@[simp] theorem setI_stack (s : State) (w : Word) : (s.setI w).stack = s.stack := rfl
@[simp] theorem setI_sp (s : State) (w : Word) : (s.setI w).sp = s.sp := rfl
@[simp] theorem setI_dt (s : State) (w : Word) : (s.setI w).dt = s.dt := rfl
@[simp] theorem setI_st (s : State) (w : Word) : (s.setI w).st = s.st := rfl
@[simp] theorem setI_key (s : State) (w : Word) : (s.setI w).key = s.key := rfl
@[simp] theorem setI_kw (s : State) (w : Word) : (s.setI w).kw = s.kw := rfl
@[simp] theorem setI_mode (s : State) (w : Word) : (s.setI w).mode = s.mode := rfl
@[simp] theorem setI_lo (s : State) (w : Word) : (s.setI w).lo = s.lo := rfl
@[simp] theorem setI_hi (s : State) (w : Word) : (s.setI w).hi = s.hi := rfl
@[simp] theorem setI_draws (s : State) (w : Word) : (s.setI w).draws = s.draws := rfl
@[simp] theorem setI_diag (s : State) (w : Word) : (s.setI w).diag = s.diag := rfl

/-! ## setPc -/

@[simp] theorem setPc_mem (s : State) (w : Word) : (s.setPc w).mem = s.mem := rfl
@[simp] theorem setPc_v (s : State) (w : Word) : (s.setPc w).v = s.v := rfl
@[simp] theorem setPc_i (s : State) (w : Word) : (s.setPc w).i = s.i := rfl
@[simp] theorem setPc_pc (s : State) (w : Word) : (s.setPc w).pc = w := rfl
@[simp] theorem setPc_stack (s : State) (w : Word) : (s.setPc w).stack = s.stack := rfl
@[simp] theorem setPc_sp (s : State) (w : Word) : (s.setPc w).sp = s.sp := rfl
@[simp] theorem setPc_dt (s : State) (w : Word) : (s.setPc w).dt = s.dt := rfl
@[simp] theorem setPc_st (s : State) (w : Word) : (s.setPc w).st = s.st := rfl
@[simp] theorem setPc_key (s : State) (w : Word) : (s.setPc w).key = s.key := rfl
@[simp] theorem setPc_kw (s : State) (w : Word) : (s.setPc w).kw = s.kw := rfl
@[simp] theorem setPc_mode (s : State) (w : Word) : (s.setPc w).mode = s.mode := rfl
@[simp] theorem setPc_lo (s : State) (w : Word) : (s.setPc w).lo = s.lo := rfl
@[simp] theorem setPc_hi (s : State) (w : Word) : (s.setPc w).hi = s.hi := rfl
@[simp] theorem setPc_draws (s : State) (w : Word) : (s.setPc w).draws = s.draws := rfl
@[simp] theorem setPc_diag (s : State) (w : Word) : (s.setPc w).diag = s.diag := rfl

/-! ## setDt -/

@[simp] theorem setDt_mem (s : State) (b : Byte) : (s.setDt b).mem = s.mem := rfl
@[simp] theorem setDt_v (s : State) (b : Byte) : (s.setDt b).v = s.v := rfl
@[simp] theorem setDt_i (s : State) (b : Byte) : (s.setDt b).i = s.i := rfl
@[simp] theorem setDt_pc (s : State) (b : Byte) : (s.setDt b).pc = s.pc := rfl
@[simp] theorem setDt_stack (s : State) (b : Byte) : (s.setDt b).stack = s.stack := rfl
@[simp] theorem setDt_sp (s : State) (b : Byte) : (s.setDt b).sp = s.sp := rfl
@[simp] theorem setDt_dt (s : State) (b : Byte) : (s.setDt b).dt = b := rfl
@[simp] theorem setDt_st (s : State) (b : Byte) : (s.setDt b).st = s.st := rfl
@[simp] theorem setDt_key (s : State) (b : Byte) : (s.setDt b).key = s.key := rfl
@[simp] theorem setDt_kw (s : State) (b : Byte) : (s.setDt b).kw = s.kw := rfl
@[simp] theorem setDt_mode (s : State) (b : Byte) : (s.setDt b).mode = s.mode := rfl
@[simp] theorem setDt_lo (s : State) (b : Byte) : (s.setDt b).lo = s.lo := rfl
@[simp] theorem setDt_hi (s : State) (b : Byte) : (s.setDt b).hi = s.hi := rfl
@[simp] theorem setDt_draws (s : State) (b : Byte) : (s.setDt b).draws = s.draws := rfl
@[simp] theorem setDt_diag (s : State) (b : Byte) : (s.setDt b).diag = s.diag := rfl

/-! ## setSt -/

@[simp] theorem setSt_mem (s : State) (b : Byte) : (s.setSt b).mem = s.mem := rfl
@[simp] theorem setSt_v (s : State) (b : Byte) : (s.setSt b).v = s.v := rfl
@[simp] theorem setSt_i (s : State) (b : Byte) : (s.setSt b).i = s.i := rfl
@[simp] theorem setSt_pc (s : State) (b : Byte) : (s.setSt b).pc = s.pc := rfl
@[simp] theorem setSt_stack (s : State) (b : Byte) : (s.setSt b).stack = s.stack := rfl
@[simp] theorem setSt_sp (s : State) (b : Byte) : (s.setSt b).sp = s.sp := rfl
@[simp] theorem setSt_dt (s : State) (b : Byte) : (s.setSt b).dt = s.dt := rfl
@[simp] theorem setSt_st (s : State) (b : Byte) : (s.setSt b).st = b := rfl
@[simp] theorem setSt_key (s : State) (b : Byte) : (s.setSt b).key = s.key := rfl
@[simp] theorem setSt_kw (s : State) (b : Byte) : (s.setSt b).kw = s.kw := rfl
@[simp] theorem setSt_mode (s : State) (b : Byte) : (s.setSt b).mode = s.mode := rfl
@[simp] theorem setSt_lo (s : State) (b : Byte) : (s.setSt b).lo = s.lo := rfl
@[simp] theorem setSt_hi (s : State) (b : Byte) : (s.setSt b).hi = s.hi := rfl
@[simp] theorem setSt_draws (s : State) (b : Byte) : (s.setSt b).draws = s.draws := rfl
@[simp] theorem setSt_diag (s : State) (b : Byte) : (s.setSt b).diag = s.diag := rfl

/-! ## setKey -/

@[simp] theorem setKey_mem (s : State) (k : Reg) (d : Bool) : (s.setKey k d).mem = s.mem := rfl
@[simp] theorem setKey_v (s : State) (k : Reg) (d : Bool) : (s.setKey k d).v = s.v := rfl
@[simp] theorem setKey_i (s : State) (k : Reg) (d : Bool) : (s.setKey k d).i = s.i := rfl
@[simp] theorem setKey_pc (s : State) (k : Reg) (d : Bool) : (s.setKey k d).pc = s.pc := rfl
@[simp] theorem setKey_stack (s : State) (k : Reg) (d : Bool) : (s.setKey k d).stack = s.stack := rfl
@[simp] theorem setKey_sp (s : State) (k : Reg) (d : Bool) : (s.setKey k d).sp = s.sp := rfl
@[simp] theorem setKey_dt (s : State) (k : Reg) (d : Bool) : (s.setKey k d).dt = s.dt := rfl
@[simp] theorem setKey_st (s : State) (k : Reg) (d : Bool) : (s.setKey k d).st = s.st := rfl
@[simp] theorem setKey_key (s : State) (k : Reg) (d : Bool) : (s.setKey k d).key = s.key.set k d := rfl
@[simp] theorem setKey_kw (s : State) (k : Reg) (d : Bool) : (s.setKey k d).kw = s.kw := rfl
@[simp] theorem setKey_mode (s : State) (k : Reg) (d : Bool) : (s.setKey k d).mode = s.mode := rfl
@[simp] theorem setKey_lo (s : State) (k : Reg) (d : Bool) : (s.setKey k d).lo = s.lo := rfl
@[simp] theorem setKey_hi (s : State) (k : Reg) (d : Bool) : (s.setKey k d).hi = s.hi := rfl
@[simp] theorem setKey_draws (s : State) (k : Reg) (d : Bool) : (s.setKey k d).draws = s.draws := rfl
@[simp] theorem setKey_diag (s : State) (k : Reg) (d : Bool) : (s.setKey k d).diag = s.diag := rfl

/-! ## setKw -/

@[simp] theorem setKw_mem (s : State) (kw : KeyWait) : (s.setKw kw).mem = s.mem := rfl
@[simp] theorem setKw_v (s : State) (kw : KeyWait) : (s.setKw kw).v = s.v := rfl
@[simp] theorem setKw_i (s : State) (kw : KeyWait) : (s.setKw kw).i = s.i := rfl
@[simp] theorem setKw_pc (s : State) (kw : KeyWait) : (s.setKw kw).pc = s.pc := rfl
@[simp] theorem setKw_stack (s : State) (kw : KeyWait) : (s.setKw kw).stack = s.stack := rfl
@[simp] theorem setKw_sp (s : State) (kw : KeyWait) : (s.setKw kw).sp = s.sp := rfl
@[simp] theorem setKw_dt (s : State) (kw : KeyWait) : (s.setKw kw).dt = s.dt := rfl
@[simp] theorem setKw_st (s : State) (kw : KeyWait) : (s.setKw kw).st = s.st := rfl
@[simp] theorem setKw_key (s : State) (kw : KeyWait) : (s.setKw kw).key = s.key := rfl
@[simp] theorem setKw_kw (s : State) (kw : KeyWait) : (s.setKw kw).kw = kw := rfl
@[simp] theorem setKw_mode (s : State) (kw : KeyWait) : (s.setKw kw).mode = s.mode := rfl
@[simp] theorem setKw_lo (s : State) (kw : KeyWait) : (s.setKw kw).lo = s.lo := rfl
@[simp] theorem setKw_hi (s : State) (kw : KeyWait) : (s.setKw kw).hi = s.hi := rfl
@[simp] theorem setKw_draws (s : State) (kw : KeyWait) : (s.setKw kw).draws = s.draws := rfl
@[simp] theorem setKw_diag (s : State) (kw : KeyWait) : (s.setKw kw).diag = s.diag := rfl

/-! ## setMode -/

@[simp] theorem setMode_mem (s : State) (d : DisplayMode) : (s.setMode d).mem = s.mem := rfl
@[simp] theorem setMode_v (s : State) (d : DisplayMode) : (s.setMode d).v = s.v := rfl
@[simp] theorem setMode_i (s : State) (d : DisplayMode) : (s.setMode d).i = s.i := rfl
@[simp] theorem setMode_pc (s : State) (d : DisplayMode) : (s.setMode d).pc = s.pc := rfl
@[simp] theorem setMode_stack (s : State) (d : DisplayMode) : (s.setMode d).stack = s.stack := rfl
@[simp] theorem setMode_sp (s : State) (d : DisplayMode) : (s.setMode d).sp = s.sp := rfl
@[simp] theorem setMode_dt (s : State) (d : DisplayMode) : (s.setMode d).dt = s.dt := rfl
@[simp] theorem setMode_st (s : State) (d : DisplayMode) : (s.setMode d).st = s.st := rfl
@[simp] theorem setMode_key (s : State) (d : DisplayMode) : (s.setMode d).key = s.key := rfl
@[simp] theorem setMode_kw (s : State) (d : DisplayMode) : (s.setMode d).kw = s.kw := rfl
@[simp] theorem setMode_mode (s : State) (d : DisplayMode) : (s.setMode d).mode = d := rfl
@[simp] theorem setMode_lo (s : State) (d : DisplayMode) : (s.setMode d).lo = s.lo := rfl
@[simp] theorem setMode_hi (s : State) (d : DisplayMode) : (s.setMode d).hi = s.hi := rfl
@[simp] theorem setMode_draws (s : State) (d : DisplayMode) : (s.setMode d).draws = s.draws := rfl
@[simp] theorem setMode_diag (s : State) (d : DisplayMode) : (s.setMode d).diag = s.diag := rfl

/-! ## setLo -/

@[simp] theorem setLo_mem (s : State) (b : Buffer 64 32) : (s.setLo b).mem = s.mem := rfl
@[simp] theorem setLo_v (s : State) (b : Buffer 64 32) : (s.setLo b).v = s.v := rfl
@[simp] theorem setLo_i (s : State) (b : Buffer 64 32) : (s.setLo b).i = s.i := rfl
@[simp] theorem setLo_pc (s : State) (b : Buffer 64 32) : (s.setLo b).pc = s.pc := rfl
@[simp] theorem setLo_stack (s : State) (b : Buffer 64 32) : (s.setLo b).stack = s.stack := rfl
@[simp] theorem setLo_sp (s : State) (b : Buffer 64 32) : (s.setLo b).sp = s.sp := rfl
@[simp] theorem setLo_dt (s : State) (b : Buffer 64 32) : (s.setLo b).dt = s.dt := rfl
@[simp] theorem setLo_st (s : State) (b : Buffer 64 32) : (s.setLo b).st = s.st := rfl
@[simp] theorem setLo_key (s : State) (b : Buffer 64 32) : (s.setLo b).key = s.key := rfl
@[simp] theorem setLo_kw (s : State) (b : Buffer 64 32) : (s.setLo b).kw = s.kw := rfl
@[simp] theorem setLo_mode (s : State) (b : Buffer 64 32) : (s.setLo b).mode = s.mode := rfl
@[simp] theorem setLo_lo (s : State) (b : Buffer 64 32) : (s.setLo b).lo = b := rfl
@[simp] theorem setLo_hi (s : State) (b : Buffer 64 32) : (s.setLo b).hi = s.hi := rfl
@[simp] theorem setLo_draws (s : State) (b : Buffer 64 32) : (s.setLo b).draws = s.draws := rfl
@[simp] theorem setLo_diag (s : State) (b : Buffer 64 32) : (s.setLo b).diag = s.diag := rfl

/-! ## setHi -/

@[simp] theorem setHi_mem (s : State) (b : Buffer 128 64) : (s.setHi b).mem = s.mem := rfl
@[simp] theorem setHi_v (s : State) (b : Buffer 128 64) : (s.setHi b).v = s.v := rfl
@[simp] theorem setHi_i (s : State) (b : Buffer 128 64) : (s.setHi b).i = s.i := rfl
@[simp] theorem setHi_pc (s : State) (b : Buffer 128 64) : (s.setHi b).pc = s.pc := rfl
@[simp] theorem setHi_stack (s : State) (b : Buffer 128 64) : (s.setHi b).stack = s.stack := rfl
@[simp] theorem setHi_sp (s : State) (b : Buffer 128 64) : (s.setHi b).sp = s.sp := rfl
@[simp] theorem setHi_dt (s : State) (b : Buffer 128 64) : (s.setHi b).dt = s.dt := rfl
@[simp] theorem setHi_st (s : State) (b : Buffer 128 64) : (s.setHi b).st = s.st := rfl
@[simp] theorem setHi_key (s : State) (b : Buffer 128 64) : (s.setHi b).key = s.key := rfl
@[simp] theorem setHi_kw (s : State) (b : Buffer 128 64) : (s.setHi b).kw = s.kw := rfl
@[simp] theorem setHi_mode (s : State) (b : Buffer 128 64) : (s.setHi b).mode = s.mode := rfl
@[simp] theorem setHi_lo (s : State) (b : Buffer 128 64) : (s.setHi b).lo = s.lo := rfl
@[simp] theorem setHi_hi (s : State) (b : Buffer 128 64) : (s.setHi b).hi = b := rfl
@[simp] theorem setHi_draws (s : State) (b : Buffer 128 64) : (s.setHi b).draws = s.draws := rfl
@[simp] theorem setHi_diag (s : State) (b : Buffer 128 64) : (s.setHi b).diag = s.diag := rfl

/-! ## emitDiag -/

@[simp] theorem emitDiag_mem (s : State) (op : Word) : (s.emitDiag op).mem = s.mem := rfl
@[simp] theorem emitDiag_v (s : State) (op : Word) : (s.emitDiag op).v = s.v := rfl
@[simp] theorem emitDiag_i (s : State) (op : Word) : (s.emitDiag op).i = s.i := rfl
@[simp] theorem emitDiag_pc (s : State) (op : Word) : (s.emitDiag op).pc = s.pc := rfl
@[simp] theorem emitDiag_stack (s : State) (op : Word) : (s.emitDiag op).stack = s.stack := rfl
@[simp] theorem emitDiag_sp (s : State) (op : Word) : (s.emitDiag op).sp = s.sp := rfl
@[simp] theorem emitDiag_dt (s : State) (op : Word) : (s.emitDiag op).dt = s.dt := rfl
@[simp] theorem emitDiag_st (s : State) (op : Word) : (s.emitDiag op).st = s.st := rfl
@[simp] theorem emitDiag_key (s : State) (op : Word) : (s.emitDiag op).key = s.key := rfl
@[simp] theorem emitDiag_kw (s : State) (op : Word) : (s.emitDiag op).kw = s.kw := rfl
@[simp] theorem emitDiag_mode (s : State) (op : Word) : (s.emitDiag op).mode = s.mode := rfl
@[simp] theorem emitDiag_lo (s : State) (op : Word) : (s.emitDiag op).lo = s.lo := rfl
@[simp] theorem emitDiag_hi (s : State) (op : Word) : (s.emitDiag op).hi = s.hi := rfl
@[simp] theorem emitDiag_draws (s : State) (op : Word) : (s.emitDiag op).draws = s.draws := rfl
@[simp] theorem emitDiag_diag (s : State) (op : Word) : (s.emitDiag op).diag = s.diag ++ [op] := rfl

/-! ## countDraw -/

@[simp] theorem countDraw_mem (s : State) : s.countDraw.mem = s.mem := rfl
@[simp] theorem countDraw_v (s : State) : s.countDraw.v = s.v := rfl
@[simp] theorem countDraw_i (s : State) : s.countDraw.i = s.i := rfl
@[simp] theorem countDraw_pc (s : State) : s.countDraw.pc = s.pc := rfl
@[simp] theorem countDraw_stack (s : State) : s.countDraw.stack = s.stack := rfl
@[simp] theorem countDraw_sp (s : State) : s.countDraw.sp = s.sp := rfl
@[simp] theorem countDraw_dt (s : State) : s.countDraw.dt = s.dt := rfl
@[simp] theorem countDraw_st (s : State) : s.countDraw.st = s.st := rfl
@[simp] theorem countDraw_key (s : State) : s.countDraw.key = s.key := rfl
@[simp] theorem countDraw_kw (s : State) : s.countDraw.kw = s.kw := rfl
@[simp] theorem countDraw_mode (s : State) : s.countDraw.mode = s.mode := rfl
@[simp] theorem countDraw_lo (s : State) : s.countDraw.lo = s.lo := rfl
@[simp] theorem countDraw_hi (s : State) : s.countDraw.hi = s.hi := rfl
@[simp] theorem countDraw_draws (s : State) : s.countDraw.draws = s.draws + 1 := rfl
@[simp] theorem countDraw_diag (s : State) : s.countDraw.diag = s.diag := rfl

/-! ## push -/

@[simp] theorem push_mem (s : State) (w : Word) : (s.push w).mem = s.mem := rfl
@[simp] theorem push_v (s : State) (w : Word) : (s.push w).v = s.v := rfl
@[simp] theorem push_i (s : State) (w : Word) : (s.push w).i = s.i := rfl
@[simp] theorem push_pc (s : State) (w : Word) : (s.push w).pc = s.pc := rfl
@[simp] theorem push_stack (s : State) (w : Word) : (s.push w).stack = s.stack.set s.sp w := rfl
@[simp] theorem push_sp (s : State) (w : Word) : (s.push w).sp = s.sp + 1 := rfl
@[simp] theorem push_dt (s : State) (w : Word) : (s.push w).dt = s.dt := rfl
@[simp] theorem push_st (s : State) (w : Word) : (s.push w).st = s.st := rfl
@[simp] theorem push_key (s : State) (w : Word) : (s.push w).key = s.key := rfl
@[simp] theorem push_kw (s : State) (w : Word) : (s.push w).kw = s.kw := rfl
@[simp] theorem push_mode (s : State) (w : Word) : (s.push w).mode = s.mode := rfl
@[simp] theorem push_lo (s : State) (w : Word) : (s.push w).lo = s.lo := rfl
@[simp] theorem push_hi (s : State) (w : Word) : (s.push w).hi = s.hi := rfl
@[simp] theorem push_draws (s : State) (w : Word) : (s.push w).draws = s.draws := rfl
@[simp] theorem push_diag (s : State) (w : Word) : (s.push w).diag = s.diag := rfl

/-! ## dropTop -/

@[simp] theorem dropTop_mem (s : State) : s.dropTop.mem = s.mem := rfl
@[simp] theorem dropTop_v (s : State) : s.dropTop.v = s.v := rfl
@[simp] theorem dropTop_i (s : State) : s.dropTop.i = s.i := rfl
@[simp] theorem dropTop_pc (s : State) : s.dropTop.pc = s.pc := rfl
@[simp] theorem dropTop_stack (s : State) : s.dropTop.stack = s.stack := rfl
@[simp] theorem dropTop_sp (s : State) : s.dropTop.sp = s.sp - 1 := rfl
@[simp] theorem dropTop_dt (s : State) : s.dropTop.dt = s.dt := rfl
@[simp] theorem dropTop_st (s : State) : s.dropTop.st = s.st := rfl
@[simp] theorem dropTop_key (s : State) : s.dropTop.key = s.key := rfl
@[simp] theorem dropTop_kw (s : State) : s.dropTop.kw = s.kw := rfl
@[simp] theorem dropTop_mode (s : State) : s.dropTop.mode = s.mode := rfl
@[simp] theorem dropTop_lo (s : State) : s.dropTop.lo = s.lo := rfl
@[simp] theorem dropTop_hi (s : State) : s.dropTop.hi = s.hi := rfl
@[simp] theorem dropTop_draws (s : State) : s.dropTop.draws = s.draws := rfl
@[simp] theorem dropTop_diag (s : State) : s.dropTop.diag = s.diag := rfl

end Sys2Proof.Machine.State
end

