-- ==== Sys2Proof/Laws/Registers.lean ====
section
/-! SUPPORT. What a register, a flag, the stack and one byte of memory read as after each named update. -/

namespace Sys2Proof.Machine

variable (s : State)

/-! ## General registers -/

@[simp] theorem State.reg_setReg (x : Reg) (b : Byte) (r : Reg) :
    (s.setReg x b).reg r = if r = x then b else s.reg r := by
  by_cases h : r = x
  · subst h; simp [State.reg, State.setReg]
  · have : x.val ≠ r.val := fun e => h (Fin.ext e.symm)
    simp [State.reg, State.setReg, h, Vector.getElem_set_ne, this]

@[simp] theorem State.reg_setFlag (b : Byte) (r : Reg) :
    (s.setFlag b).reg r = if r = flagReg then b else s.reg r := State.reg_setReg s flagReg b r

@[simp] theorem State.reg_setRegsUpTo (x : Reg) (f : Nat → Byte) (r : Reg) :
    (s.setRegsUpTo x f).reg r = if r ≤ x then f r.val else s.reg r := by
  simp [State.reg, State.setRegsUpTo]

/-- Two states with the same registers read the same. -/
theorem State.reg_congr {s t : State} (h : t.v = s.v) (r : Reg) : t.reg r = s.reg r := by
  simp [State.reg, h]

@[simp] theorem State.reg_memWrite (a : Nat) (u : Byte) (r : Reg) : (s.memWrite a u).reg r = s.reg r := rfl
@[simp] theorem State.reg_storeBytes (a : Nat) (bs : List Byte) (r : Reg) : (s.storeBytes a bs).reg r = s.reg r := rfl
@[simp] theorem State.reg_setI (w : Word) (r : Reg) : (s.setI w).reg r = s.reg r := rfl
@[simp] theorem State.reg_setPc (w : Word) (r : Reg) : (s.setPc w).reg r = s.reg r := rfl
@[simp] theorem State.reg_setDt (b : Byte) (r : Reg) : (s.setDt b).reg r = s.reg r := rfl
@[simp] theorem State.reg_setSt (b : Byte) (r : Reg) : (s.setSt b).reg r = s.reg r := rfl
@[simp] theorem State.reg_setKey (k : Reg) (d : Bool) (r : Reg) : (s.setKey k d).reg r = s.reg r := rfl
@[simp] theorem State.reg_setKw (kw : KeyWait) (r : Reg) : (s.setKw kw).reg r = s.reg r := rfl
@[simp] theorem State.reg_setMode (d : DisplayMode) (r : Reg) : (s.setMode d).reg r = s.reg r := rfl
@[simp] theorem State.reg_setLo (b : Buffer 64 32) (r : Reg) : (s.setLo b).reg r = s.reg r := rfl
@[simp] theorem State.reg_setHi (b : Buffer 128 64) (r : Reg) : (s.setHi b).reg r = s.reg r := rfl
@[simp] theorem State.reg_emitDiag (op : Word) (r : Reg) : (s.emitDiag op).reg r = s.reg r := rfl
@[simp] theorem State.reg_countDraw (r : Reg) : s.countDraw.reg r = s.reg r := rfl
@[simp] theorem State.reg_push (w : Word) (r : Reg) : (s.push w).reg r = s.reg r := rfl
@[simp] theorem State.reg_dropTop (r : Reg) : s.dropTop.reg r = s.reg r := rfl

/-! ## Result and flag -/

/-- A result and its flag: the flag is what `VF` ends as, also when the result is addressed to it. -/
theorem State.reg_setResultAndFlag (x : Reg) (result flag : Byte) (r : Reg) :
    (s.setResultAndFlag x result flag).reg r =
      if r = flagReg then flag else if r = x then result else s.reg r := by
  simp [State.setResultAndFlag]

theorem flagByte_eq_one (b : Bool) : flagByte b = 1 ↔ b = true := by cases b <;> simp [flagByte]

theorem flagByte_eq_zero (b : Bool) : flagByte b = 0 ↔ b = false := by cases b <;> simp [flagByte]

/-- The carry is 1 exactly when the sum is over 255. -/
theorem carryFlag_eq (a b : Byte) : carryFlag a b = if 255 < a.toNat + b.toNat then 1 else 0 := by
  have ha := a.isLt
  have hb := b.isLt
  have : (a.setWidth 9 + b.setWidth 9).getLsbD 8 = decide (255 < a.toNat + b.toNat) := by
    have : (a.setWidth 9 + b.setWidth 9).toNat = a.toNat + b.toNat := by
      simp [BitVec.toNat_add, BitVec.toNat_setWidth]; omega
    rw [BitVec.getLsbD, this, Nat.testBit_eq_decide_div_mod_eq]
    congr 1
    apply propext
    constructor <;> intro h <;> omega
  simp only [carryFlag, flagByte, this, decide_eq_true_eq]

/-- NOT borrow is 1 exactly when the minuend is at least the subtrahend. -/
theorem notBorrowFlag_eq (a b : Byte) : notBorrowFlag a b = if b.toNat ≤ a.toNat then 1 else 0 := by
  simp [notBorrowFlag, flagByte, BitVec.le_def]

/-! ## Memory -/

/-- What a read gives after a block store on the state. -/
theorem State.memRead_storeBytes_inside (a : Nat) (bs : List Byte) (hlen : bs.length ≤ Config.memSize) (i : Nat)
    (hi : i < bs.length) : (s.storeBytes a bs).memRead (a + i) = bs[i] :=
  Memory.read_writeBytes_inside s.mem a bs hlen i hi

/-- A byte outside a block store is unchanged. -/
theorem State.memRead_storeBytes_outside (a : Nat) (bs : List Byte) (hlen : bs.length ≤ Config.memSize) (b : Nat)
    (hb : ∀ i < bs.length, (a + i) % Config.memSize ≠ b % Config.memSize) :
    (s.storeBytes a bs).memRead b = s.memRead b :=
  Memory.read_writeBytes_outside s.mem a bs hlen b hb

/-- A read depends on the memory only. -/
theorem State.memRead_congr {s t : State} (h : t.mem = s.mem) (a : Nat) : t.memRead a = s.memRead a := by
  simp [State.memRead, h]

@[simp] theorem State.memRead_setReg (x : Reg) (b : Byte) (a : Nat) : (s.setReg x b).memRead a = s.memRead a := rfl
@[simp] theorem State.memRead_setFlag (b : Byte) (a : Nat) : (s.setFlag b).memRead a = s.memRead a := rfl
@[simp] theorem State.memRead_setPc (w : Word) (a : Nat) : (s.setPc w).memRead a = s.memRead a := rfl

/-- The effective address is already below 4096, so reading there is reading at `I + i` (R41, R129). -/
theorem State.loadIndexed_eq (offset : Nat) : s.loadIndexed offset = s.memRead (s.i.toNat + offset) := by
  simp [State.loadIndexed, State.effectiveAddress, State.memRead]

/-- The digit of a byte is its remainder modulo 16 (R127, R145). -/
theorem lowDigit_val (b : Byte) : (lowDigit b).val = b.toNat % 16 := by simp [lowDigit, regOfNibble]

/-! ## Stack -/

/-- Popping what was just pushed gives it back and leaves the pointer where it was. -/
theorem State.top_push (w : Word) : (s.push w).top = w := by
  simp [State.top, State.push]

theorem State.sp_dropTop_push (w : Word) : (s.push w).dropTop.sp = s.sp := by simp

/-! ## Fetch -/

theorem State.fetchAddress_lt : s.fetchAddress < Config.memSize := Nat.mod_lt _ (by decide)

/-- After the advance `PC` is the next address modulo 4096 (R81). -/
theorem State.advancePc_pc_toNat : s.advancePc.pc.toNat = (s.fetchAddress + 2) % Config.memSize := by
  have : (s.fetchAddress + 2) % Config.memSize < Config.memSize := Nat.mod_lt _ (by decide)
  simp only [State.advancePc, State.setPc_pc, BitVec.toNat_ofNat]
  apply Nat.mod_eq_of_lt
  simp only [Config.memSize] at this ⊢
  omega

/-- The instruction at `PC` is the decoding of the opcode fetched there. -/
theorem State.fetchInstr_eq : s.fetchInstr = decode s.fetchWord := rfl

end Sys2Proof.Machine
end

