-- ==== Sys2Proof/Laws/Display.lean ====
section
/-! SUPPORT. The rows and pixels of a buffer after each operation of the display engine. -/

namespace Sys2Proof.Machine

variable {w h sw : Nat}

/-! ## Clear and scroll -/

@[simp] theorem clearBuffer_getElem (buf : Buffer w h) (r : Nat) (hr : r < h) : (clearBuffer buf)[r] = 0 := by
  simp [clearBuffer]

@[simp] theorem scrollDown_getElem (n : Nat) (buf : Buffer w h) (r : Nat) (hr : r < h) :
    (scrollDown n buf)[r] = if n ≤ r then buf[r - n] else 0 := by
  simp [scrollDown]

@[simp] theorem scrollRight_getElem (buf : Buffer w h) (r : Nat) (hr : r < h) : (scrollRight buf)[r] = buf[r] >>> 4 := by
  simp [scrollRight]

@[simp] theorem scrollLeft_getElem (buf : Buffer w h) (r : Nat) (hr : r < h) : (scrollLeft buf)[r] = buf[r] <<< 4 := by
  simp [scrollLeft]

/-! ## Pixels -/

/-- Shifting a row right moves its pixels right. -/
theorem getMsbD_shiftRight (row : BitVec w) (n c : Nat) (hc : c < w) :
    (row >>> n).getMsbD c = (decide (n ≤ c) && row.getMsbD (c - n)) := by
  by_cases hn : n ≤ c
  · have : n + (w - 1 - c) = w - 1 - (c - n) := by omega
    have hlt : c - n < w := by omega
    simp [BitVec.getMsbD, hc, hn, hlt, this]
  · have : w ≤ n + (w - 1 - c) := by omega
    simp [BitVec.getMsbD, hc, hn, BitVec.getLsbD_of_ge _ _ this]

/-- A sprite row put on a screen row at column `x0`: its pixel `j` lands at column `x0 + j` or is dropped (R137). -/
theorem getMsbD_placeRow (x0 : Nat) (d : BitVec sw) (c : Nat) (hsw : sw ≤ w) (hc : c < w) :
    (placeRow w x0 d).getMsbD c = (decide (x0 ≤ c ∧ c < x0 + sw) && d.getMsbD (c - x0)) := by
  rw [placeRow, getMsbD_shiftRight _ _ _ hc]
  by_cases hx : x0 ≤ c
  · by_cases hlt : c < x0 + sw
    · have h1 : c - x0 < w := by omega
      have h2 : c - x0 < sw := by omega
      have h3 : ¬ w - 1 - (c - x0) < w - sw := by omega
      have h4 : w - 1 - (c - x0) < w := by omega
      have h5 : w - 1 - (c - x0) - (w - sw) = sw - 1 - (c - x0) := by omega
      simp [BitVec.getMsbD, hx, hlt, h1, h2, h3, h4, h5]
    · have h2 : ¬ c - x0 < sw := by omega
      by_cases h3 : w - 1 - (c - x0) < w - sw
      · simp [BitVec.getMsbD, hx, hlt, h2, h3]
      · omega
  · simp [hx]

/-! ## Draw -/

/-- The rows after a draw: the sprite's rows are XOR-ed in, every other row is as before (R137, R140). -/
theorem drawRows_getElem (mask : Nat → BitVec w) (y0 rows r : Nat) (buf : Buffer w h) (collided : Bool) (j : Nat)
    (hj : j < h) :
    (drawRows mask y0 rows r buf collided).1[j] =
      if y0 + r ≤ j ∧ j < y0 + r + rows then buf[j] ^^^ mask (j - y0) else buf[j] := by
  induction rows generalizing r buf collided with
  | zero => simp only [drawRows]; rw [if_neg (by omega)]
  | succ rows ih =>
    simp only [drawRows]
    split
    · rw [ih]
      by_cases hjr : j = y0 + r
      · subst hjr
        rw [if_neg (by omega), if_pos (by omega)]
        simp
      · rw [Vector.getElem_set_ne _ _ (by omega)]
        by_cases hin : y0 + (r + 1) ≤ j ∧ j < y0 + (r + 1) + rows
        · rw [if_pos hin, if_pos (by omega)]
        · rw [if_neg hin, if_neg (by omega)]
    · rw [if_neg (by omega)]

/-- The collision report of a draw: some drawn row met a lit pixel (R137, R141). -/
theorem drawRows_collided (mask : Nat → BitVec w) (y0 rows r : Nat) (buf : Buffer w h) (collided : Bool) :
    (drawRows mask y0 rows r buf collided).2 = true ↔
      collided = true ∨ ∃ j, ∃ hj : j < h, (y0 + r ≤ j ∧ j < y0 + r + rows) ∧ buf[j] &&& mask (j - y0) ≠ 0 := by
  induction rows generalizing r buf collided with
  | zero =>
    simp only [drawRows]
    constructor
    · exact .inl
    · rintro (hc | ⟨j, hj, hin, -⟩)
      · exact hc
      · omega
  | succ rows ih =>
    simp only [drawRows]
    split
    · rename_i inside
      rw [ih, Bool.or_eq_true, bne_iff_ne, or_assoc]
      apply or_congr_right
      constructor
      · rintro (hc | ⟨j, hj, hin, hne⟩)
        · exact ⟨y0 + r, inside, by omega, by simpa using hc⟩
        · rw [Vector.getElem_set_ne _ _ (by omega)] at hne
          exact ⟨j, hj, by omega, hne⟩
      · rintro ⟨j, hj, hin, hne⟩
        by_cases hjr : j = y0 + r
        · subst hjr; exact .inl (by simpa using hne)
        · exact .inr ⟨j, hj, by omega, by rwa [Vector.getElem_set_ne _ _ (by omega)]⟩
    · constructor
      · exact .inl
      · rintro (hc | ⟨j, hj, hin, -⟩)
        · exact hc
        · omega

/-- A row is not zero exactly when some of its pixels is lit. -/
theorem ne_zero_iff_getMsbD (row : BitVec w) : row ≠ 0 ↔ ∃ c < w, row.getMsbD c = true := by
  constructor
  · intro hne
    by_contra hall
    push Not at hall
    apply hne
    apply BitVec.eq_of_getMsbD_eq
    intro c hc
    simpa using hall c hc
  · rintro ⟨c, -, hc⟩ rfl
    simp at hc

/-! ## The active buffer -/

theorem State.updateActive_low {s : State} (hm : s.mode = .lowRes) (f : {w h : Nat} → Buffer w h → Buffer w h) :
    s.updateActive f = s.setLo (f s.lo) := by
  simp [State.updateActive, hm]

theorem State.updateActive_high {s : State} (hm : s.mode = .highRes) (f : {w h : Nat} → Buffer w h → Buffer w h) :
    s.updateActive f = s.setHi (f s.hi) := by
  simp [State.updateActive, hm]

theorem State.draw_low {s : State} (hm : s.mode = .lowRes) (x y : Reg) (rows : Nat) (row : Nat → BitVec sw) :
    s.draw x y rows row =
      (s.setLo (drawSprite s.lo (s.reg x) (s.reg y) rows row).1).setFlag
        (collisionFlag (drawSprite s.lo (s.reg x) (s.reg y) rows row).2) := by
  simp [State.draw, hm]

theorem State.draw_high {s : State} (hm : s.mode = .highRes) (x y : Reg) (rows : Nat) (row : Nat → BitVec sw) :
    s.draw x y rows row =
      (s.setHi (drawSprite s.hi (s.reg x) (s.reg y) rows row).1).setFlag
        (collisionFlag (drawSprite s.hi (s.reg x) (s.reg y) rows row).2) := by
  simp [State.draw, hm]

end Sys2Proof.Machine
end

