-- ==== Sys2Proof/Laws/Encoding.lean ====
section
/-! SUPPORT. Words and their fields as numbers, and the fields of a word that was put together from its digits. -/

namespace Sys2Proof

@[simp] theorem regOfNibble_nibbleOfReg (x : Reg) : regOfNibble (nibbleOfReg x) = x := by
  revert x; decide

@[simp] theorem nibbleOfReg_regOfNibble (n : Nibble) : nibbleOfReg (regOfNibble n) = n := by
  revert n; decide

/-! ## As numbers -/

/-- A concatenation as a number: the high part shifted up, plus the low part. -/
theorem toNat_append_eq_add {k l : Nat} (a : BitVec k) (b : BitVec l) :
    (a ++ b).toNat = a.toNat * 2 ^ l + b.toNat := by
  rw [BitVec.toNat_append, ← Nat.shiftLeft_add_eq_or_of_lt b.isLt, Nat.shiftLeft_eq]

theorem toNat_wordOfBytes (a b : Byte) : (wordOfBytes a b).toNat = a.toNat * 256 + b.toNat :=
  toNat_append_eq_add a b

theorem toNat_wordOfDigits (h x y n : Nibble) :
    (wordOfDigits h x y n).toNat = h.toNat * 4096 + x.toNat * 256 + y.toNat * 16 + n.toNat := by
  refine (toNat_append_eq_add (h ++ x ++ y) n).trans ?_
  rw [toNat_append_eq_add, toNat_append_eq_add]
  omega

theorem toNat_wordXk (h : Nibble) (r : Reg) (kk : Byte) :
    (wordXk h r kk).toNat = h.toNat * 4096 + (nibbleOfReg r).toNat * 256 + kk.toNat := by
  refine (toNat_append_eq_add (h ++ nibbleOfReg r) kk).trans ?_
  rw [toNat_append_eq_add]
  omega

theorem toNat_wordA (h : Nibble) (nnn : Addr) : (wordA h nnn).toNat = h.toNat * 4096 + nnn.toNat :=
  toNat_append_eq_add h nnn

/-- A field of a bit vector as a number: a quotient and a remainder. -/
theorem toNat_field {w : Nat} (op : BitVec w) (low width : Nat) :
    (op.extractLsb' low width).toNat = op.toNat / 2 ^ low % 2 ^ width := by
  simp [Nat.shiftRight_eq_div_pow]

/-! ## Bytes of a word -/

/-- Both bytes of a word give the word back (R44). -/
@[simp] theorem wordOfBytes_highByte_lowByte (op : Word) : wordOfBytes (highByte op) (lowByte op) = op := by
  have := op.isLt
  apply BitVec.eq_of_toNat_eq
  rw [toNat_wordOfBytes, highByte, lowByte, toNat_field, toNat_field]
  omega

@[simp] theorem highByte_wordOfBytes (a b : Byte) : highByte (wordOfBytes a b) = a := by
  have := a.isLt; have := b.isLt
  apply BitVec.eq_of_toNat_eq
  rw [highByte, toNat_field, toNat_wordOfBytes]
  omega

@[simp] theorem lowByte_wordOfBytes (a b : Byte) : lowByte (wordOfBytes a b) = b := by
  have := a.isLt; have := b.isLt
  apply BitVec.eq_of_toNat_eq
  rw [lowByte, toNat_field, toNat_wordOfBytes]
  omega

variable (h x y n : Nibble) (r : Reg) (kk : Byte) (nnn : Addr)

/-! ## Fields of `hxyn` -/

@[simp] theorem fieldH_wordOfDigits : fieldH (wordOfDigits h x y n) = h := by
  have := h.isLt; have := x.isLt; have := y.isLt; have := n.isLt
  apply BitVec.eq_of_toNat_eq
  rw [fieldH, toNat_field, toNat_wordOfDigits]
  omega

@[simp] theorem fieldX_wordOfDigits : fieldX (wordOfDigits h x y n) = regOfNibble x := by
  have := h.isLt; have := x.isLt; have := y.isLt; have := n.isLt
  unfold fieldX
  congr 1
  apply BitVec.eq_of_toNat_eq
  rw [toNat_field, toNat_wordOfDigits]
  omega

@[simp] theorem fieldY_wordOfDigits : fieldY (wordOfDigits h x y n) = regOfNibble y := by
  have := h.isLt; have := x.isLt; have := y.isLt; have := n.isLt
  unfold fieldY
  congr 1
  apply BitVec.eq_of_toNat_eq
  rw [toNat_field, toNat_wordOfDigits]
  omega

@[simp] theorem fieldN_wordOfDigits : fieldN (wordOfDigits h x y n) = n := by
  have := h.isLt; have := x.isLt; have := y.isLt; have := n.isLt
  apply BitVec.eq_of_toNat_eq
  rw [fieldN, toNat_field, toNat_wordOfDigits]
  omega

/-- A word is its four digits (R7). -/
theorem eq_wordOfDigits (op : Word) :
    op = wordOfDigits (fieldH op) (nibbleOfReg (fieldX op)) (nibbleOfReg (fieldY op)) (fieldN op) := by
  have := op.isLt
  apply BitVec.eq_of_toNat_eq
  rw [toNat_wordOfDigits, fieldX, fieldY, nibbleOfReg_regOfNibble, nibbleOfReg_regOfNibble, fieldH, fieldN,
    toNat_field, toNat_field, toNat_field, toNat_field]
  omega

/-- `kk` is the digits `y` and `n` (R61). -/
theorem fieldKk_eq_append (op : Word) : fieldKk op = nibbleOfReg (fieldY op) ++ fieldN op := by
  apply BitVec.eq_of_toNat_eq
  refine Eq.trans ?_ (toNat_append_eq_add (nibbleOfReg (fieldY op)) (fieldN op)).symm
  rw [fieldY, nibbleOfReg_regOfNibble, fieldKk, fieldN, toNat_field, toNat_field, toNat_field]
  omega

/-! ## Fields of `hxkk` -/

@[simp] theorem fieldH_wordXk : fieldH (wordXk h r kk) = h := by
  have := h.isLt; have := (nibbleOfReg r).isLt; have := kk.isLt
  apply BitVec.eq_of_toNat_eq
  rw [fieldH, toNat_field, toNat_wordXk]
  omega

@[simp] theorem fieldX_wordXk : fieldX (wordXk h r kk) = r := by
  have := h.isLt; have := (nibbleOfReg r).isLt; have := kk.isLt
  rw [fieldX, ← regOfNibble_nibbleOfReg r]
  congr 1
  apply BitVec.eq_of_toNat_eq
  rw [regOfNibble_nibbleOfReg, toNat_field, toNat_wordXk]
  omega

@[simp] theorem fieldKk_wordXk : fieldKk (wordXk h r kk) = kk := by
  have := h.isLt; have := (nibbleOfReg r).isLt; have := kk.isLt
  apply BitVec.eq_of_toNat_eq
  rw [fieldKk, toNat_field, toNat_wordXk]
  omega

theorem eq_wordXk (op : Word) : op = wordXk (fieldH op) (fieldX op) (fieldKk op) := by
  have := op.isLt
  apply BitVec.eq_of_toNat_eq
  rw [toNat_wordXk, fieldX, nibbleOfReg_regOfNibble, fieldH, fieldKk, toNat_field, toNat_field, toNat_field]
  omega

/-! ## Fields of `hnnn` -/

@[simp] theorem fieldH_wordA : fieldH (wordA h nnn) = h := by
  have := h.isLt; have := nnn.isLt
  apply BitVec.eq_of_toNat_eq
  rw [fieldH, toNat_field, toNat_wordA]
  omega

@[simp] theorem fieldNnn_wordA : fieldNnn (wordA h nnn) = nnn := by
  have := h.isLt; have := nnn.isLt
  apply BitVec.eq_of_toNat_eq
  rw [fieldNnn, toNat_field, toNat_wordA]
  omega

theorem eq_wordA (op : Word) : op = wordA (fieldH op) (fieldNnn op) := by
  have := op.isLt
  apply BitVec.eq_of_toNat_eq
  rw [toNat_wordA, fieldH, fieldNnn, toNat_field, toNat_field]
  omega

/-! ## Masks -/

/-- AND works digit by digit. -/
theorem and_wordOfDigits (a b c d : Nibble) :
    wordOfDigits h x y n &&& wordOfDigits a b c d = wordOfDigits (h &&& a) (x &&& b) (y &&& c) (n &&& d) := by
  refine (BitVec.and_append (x₁ := h ++ x ++ y) (x₂ := a ++ b ++ c)).trans ?_
  rw [BitVec.and_append, BitVec.and_append]
  rfl

/-- Two words are the same when their digits are. -/
theorem wordOfDigits_inj {h x y n a b c d : Nibble} :
    wordOfDigits h x y n = wordOfDigits a b c d ↔ h = a ∧ x = b ∧ y = c ∧ n = d := by
  constructor
  · intro e
    have hx := congrArg (fun op => nibbleOfReg (fieldX op)) e
    have hy := congrArg (fun op => nibbleOfReg (fieldY op)) e
    exact ⟨by simpa using congrArg fieldH e, by simpa using hx, by simpa using hy, by simpa using congrArg fieldN e⟩
  · rintro ⟨rfl, rfl, rfl, rfl⟩; rfl

/-- A row of the map covers a word when, digit by digit, the masked word is the pattern (R65). -/
theorem covers_iff_digits (row : OpcodeRow) (op : Word) :
    row.covers op = true ↔
      fieldH op &&& fieldH row.mask = fieldH row.pattern ∧
      nibbleOfReg (fieldX op) &&& nibbleOfReg (fieldX row.mask) = nibbleOfReg (fieldX row.pattern) ∧
      nibbleOfReg (fieldY op) &&& nibbleOfReg (fieldY row.mask) = nibbleOfReg (fieldY row.pattern) ∧
      fieldN op &&& fieldN row.mask = fieldN row.pattern := by
  rw [OpcodeRow.covers, beq_iff_eq]
  conv_lhs => rw [eq_wordOfDigits op, eq_wordOfDigits row.mask, eq_wordOfDigits row.pattern]
  rw [and_wordOfDigits, wordOfDigits_inj]

/-- A row that fixes the digit `h` only. -/
theorem covers_of_fieldH {row : OpcodeRow} {op : Word} (hm : row.mask = 0xF000)
    (hp : row.pattern = wordOfDigits (fieldH op) 0 0 0) : row.covers op = true := by
  rw [OpcodeRow.covers, beq_iff_eq, hm, hp, show (0xF000 : Word) = wordOfDigits 0xF 0 0 0 by decide]
  conv_lhs => rw [eq_wordOfDigits op]
  rw [and_wordOfDigits, wordOfDigits_inj]
  exact ⟨BitVec.and_allOnes, BitVec.and_zero, BitVec.and_zero, BitVec.and_zero⟩

/-- A row that fixes the digits `h` and `n`. -/
theorem covers_of_fieldH_fieldN {row : OpcodeRow} {op : Word} (hm : row.mask = 0xF00F)
    (hp : row.pattern = wordOfDigits (fieldH op) 0 0 (fieldN op)) : row.covers op = true := by
  rw [OpcodeRow.covers, beq_iff_eq, hm, hp, show (0xF00F : Word) = wordOfDigits 0xF 0 0 0xF by decide]
  conv_lhs => rw [eq_wordOfDigits op]
  rw [and_wordOfDigits, wordOfDigits_inj]
  exact ⟨BitVec.and_allOnes, BitVec.and_zero, BitVec.and_zero, BitVec.and_allOnes⟩

/-- A row that fixes the digit `h` and the byte `kk`. -/
theorem covers_of_fieldH_fieldKk {row : OpcodeRow} {op : Word} (hm : row.mask = 0xF0FF)
    (hp : row.pattern = wordXk (fieldH op) 0 (fieldKk op)) : row.covers op = true := by
  have hd : wordXk (fieldH op) 0 (fieldKk op) =
      wordOfDigits (fieldH op) 0 (nibbleOfReg (fieldY op)) (fieldN op) := by
    apply BitVec.eq_of_toNat_eq
    rw [toNat_wordXk, toNat_wordOfDigits, fieldKk_eq_append]
    have := toNat_append_eq_add (nibbleOfReg (fieldY op)) (fieldN op)
    have h0 : (nibbleOfReg 0).toNat = 0 := by decide
    have h1 : (0 : Nibble).toNat = 0 := rfl
    simp only [h0, h1] at *
    omega
  rw [OpcodeRow.covers, beq_iff_eq, hm, hp, hd, show (0xF0FF : Word) = wordOfDigits 0xF 0 0xF 0xF by decide]
  conv_lhs => rw [eq_wordOfDigits op]
  rw [and_wordOfDigits, wordOfDigits_inj]
  exact ⟨BitVec.and_allOnes, BitVec.and_zero, BitVec.and_allOnes, BitVec.and_allOnes⟩

end Sys2Proof
end

