-- ==== Sys2Proof/Laws/Exec.lean ====
section
/-! SUPPORT. What `exec` answers for each instruction, as one equation a constructor, so that no proof unfolds the
dispatch, and what the two operations on the active buffer leave alone. -/

namespace Sys2Proof.Machine

variable {sw : Nat} (s : State)

/-! ## One equation for each constructor -/

theorem exec_scd (n : Nibble) : exec (.scd n) s = .next (s.updateActive (scrollDown n.toNat)) := rfl
theorem exec_cls : exec .cls s = .next (s.updateActive clearBuffer) := rfl
theorem exec_ret : exec .ret s = .next (s.dropTop.setPc s.top) := rfl
theorem exec_scr : exec .scr s = .next (s.updateActive scrollRight) := rfl
theorem exec_scl : exec .scl s = .next (s.updateActive scrollLeft) := rfl
theorem exec_jp (nnn : Addr) : exec (.jp nnn) s = .next (s.setPc (addrOperand nnn)) := rfl
theorem exec_call (nnn : Addr) : exec (.call nnn) s = .next ((s.push s.pc).setPc (addrOperand nnn)) := rfl
theorem exec_seImm (x : Reg) (kk : Byte) : exec (.seImm x kk) s = .next (s.skipIf (s.reg x == kk)) := rfl
theorem exec_sneImm (x : Reg) (kk : Byte) : exec (.sneImm x kk) s = .next (s.skipIf (s.reg x != kk)) := rfl
theorem exec_seReg (x : Reg) (y : Reg) : exec (.seReg x y) s = .next (s.skipIf (s.reg x == s.reg y)) := rfl
theorem exec_ldImm (x : Reg) (kk : Byte) : exec (.ldImm x kk) s = .next (s.setReg x kk) := rfl
theorem exec_addImm (x : Reg) (kk : Byte) : exec (.addImm x kk) s = .next (s.setReg x (s.reg x + kk)) := rfl
theorem exec_ldReg (x : Reg) (y : Reg) : exec (.ldReg x y) s = .next (s.setReg x (s.reg y)) := rfl
theorem exec_orReg (x : Reg) (y : Reg) : exec (.orReg x y) s =
    .next (s.setResultAndFlag x (s.reg x ||| s.reg y) logicFlag) := rfl
theorem exec_andReg (x : Reg) (y : Reg) : exec (.andReg x y) s =
    .next (s.setResultAndFlag x (s.reg x &&& s.reg y) logicFlag) := rfl
theorem exec_xorReg (x : Reg) (y : Reg) : exec (.xorReg x y) s =
    .next (s.setResultAndFlag x (s.reg x ^^^ s.reg y) logicFlag) := rfl
theorem exec_addReg (x : Reg) (y : Reg) : exec (.addReg x y) s =
    .next (s.setResultAndFlag x (s.reg x + s.reg y) (carryFlag (s.reg x) (s.reg y))) := rfl
theorem exec_sub (x : Reg) (y : Reg) : exec (.sub x y) s =
    .next (s.setResultAndFlag x (s.reg x - s.reg y) (notBorrowFlag (s.reg x) (s.reg y))) := rfl
theorem exec_shr (x : Reg) (y : Reg) : exec (.shr x y) s =
    .next (s.setResultAndFlag x (s.reg x >>> 1) (shiftRightFlag (s.reg x))) := rfl
theorem exec_subn (x : Reg) (y : Reg) : exec (.subn x y) s =
    .next (s.setResultAndFlag x (s.reg y - s.reg x) (notBorrowFlag (s.reg y) (s.reg x))) := rfl
theorem exec_shl (x : Reg) (y : Reg) : exec (.shl x y) s =
    .next (s.setResultAndFlag x (s.reg x <<< 1) (shiftLeftFlag (s.reg x))) := rfl
theorem exec_sneReg (x : Reg) (y : Reg) : exec (.sneReg x y) s = .next (s.skipIf (s.reg x != s.reg y)) := rfl
theorem exec_ldI (nnn : Addr) : exec (.ldI nnn) s = .next (s.setI (addrOperand nnn)) := rfl
theorem exec_jpV0 (nnn : Addr) : exec (.jpV0 nnn) s =
    .next (s.setPc (byteOperand (s.reg 0) + addrOperand nnn)) := rfl
theorem exec_rnd (x : Reg) (kk : Byte) : exec (.rnd x kk) s =
    .next (s.maskRandom (Config.rnd s.draws) x kk) := rfl
theorem exec_drwSuper (x : Reg) (y : Reg) : exec (.drwSuper x y) s =
    .next (s.draw x y superSpriteRows s.superRow) := rfl
theorem exec_drw (x : Reg) (y : Reg) (n : Nibble) : exec (.drw x y n) s =
    .next (s.draw x y n.toNat s.spriteRow) := rfl
theorem exec_skp (x : Reg) : exec (.skp x) s = .next (s.skipIf (s.keyDown (lowDigit (s.reg x)))) := rfl
theorem exec_sknp (x : Reg) : exec (.sknp x) s = .next (s.skipIf (!s.keyDown (lowDigit (s.reg x)))) := rfl
theorem exec_ldVxDt (x : Reg) : exec (.ldVxDt x) s = .next (s.setReg x s.dt) := rfl
theorem exec_ldDtVx (x : Reg) : exec (.ldDtVx x) s = .next (s.setDt (s.reg x)) := rfl
theorem exec_ldStVx (x : Reg) : exec (.ldStVx x) s = .next (s.setSt (s.reg x)) := rfl
theorem exec_addI (x : Reg) : exec (.addI x) s = .next (s.setI (s.i + byteOperand (s.reg x))) := rfl
theorem exec_ldF (x : Reg) : exec (.ldF x) s = .next (s.setI (glyphLoAddress (lowDigit (s.reg x)))) := rfl
theorem exec_ldHf (x : Reg) : exec (.ldHf x) s = .next (s.setI (glyphHiAddress (lowDigit (s.reg x)))) := rfl
theorem exec_ldB (x : Reg) : exec (.ldB x) s =
    .next (s.storeBytes (s.effectiveAddress 0) (decimalDigits (s.reg x))) := rfl
theorem exec_storeRegs (x : Reg) : exec (.storeRegs x) s =
    .next (s.storeBytes (s.effectiveAddress 0) (s.regsUpTo x)) := rfl
theorem exec_loadRegs (x : Reg) : exec (.loadRegs x) s = .next (s.setRegsUpTo x s.loadIndexed) := rfl
theorem exec_unknown (op : Word) : exec (.unknown op) s = .next (s.emitDiag op) := rfl

/-- `00FE` in the mode it asks for is no change, and in the other one it switches. -/
theorem exec_low_lowRes {s : State} (h : s.mode = .lowRes) : exec .low s = .next s := by simp [exec, execLow, h]

theorem exec_low_highRes {s : State} (h : s.mode = .highRes) :
    exec .low s = .next ((s.setMode .lowRes).setLo (clearBuffer s.lo)) := by simp [exec, execLow, h]

/-- `00FF` in the mode it asks for is no change, and in the other one it switches. -/
theorem exec_high_highRes {s : State} (h : s.mode = .highRes) : exec .high s = .next s := by
  simp [exec, execHigh, h]

theorem exec_high_lowRes {s : State} (h : s.mode = .lowRes) :
    exec .high s = .next ((s.setMode .highRes).setHi (clearBuffer s.hi)) := by simp [exec, execHigh, h]

/-- `Fx0A` begins the wait. -/
theorem exec_ldVxK_idle {s : State} (x : Reg) (h : s.kw = .idle) :
    exec (.ldVxK x) s = .next (s.setKw (.awaitingRelease x)).rewindPc := by simp [exec, execLdVxK, h]

/-- `Fx0A` goes on waiting. -/
theorem exec_ldVxK_waiting {s : State} (x : Reg) {d : Reg} (h : s.kw = .awaitingRelease d) :
    exec (.ldVxK x) s = .next s.rewindPc := by simp [exec, execLdVxK, h]

/-- `Fx0A` leaves the wait. -/
theorem exec_ldVxK_captured {s : State} (x : Reg) (h : s.kw = .captured) :
    exec (.ldVxK x) s = .next (s.setKw .idle) := by simp [exec, execLdVxK, h]

/-! ## What an operation on the active buffer leaves alone -/

@[simp] theorem State.updateActive_mem (f : {w h : Nat} → Buffer w h → Buffer w h) :
    (s.updateActive f).mem = s.mem := by unfold State.updateActive; split <;> rfl
@[simp] theorem State.updateActive_v (f : {w h : Nat} → Buffer w h → Buffer w h) :
    (s.updateActive f).v = s.v := by unfold State.updateActive; split <;> rfl
@[simp] theorem State.updateActive_i (f : {w h : Nat} → Buffer w h → Buffer w h) :
    (s.updateActive f).i = s.i := by unfold State.updateActive; split <;> rfl
@[simp] theorem State.updateActive_pc (f : {w h : Nat} → Buffer w h → Buffer w h) :
    (s.updateActive f).pc = s.pc := by unfold State.updateActive; split <;> rfl
@[simp] theorem State.updateActive_stack (f : {w h : Nat} → Buffer w h → Buffer w h) :
    (s.updateActive f).stack = s.stack := by unfold State.updateActive; split <;> rfl
@[simp] theorem State.updateActive_sp (f : {w h : Nat} → Buffer w h → Buffer w h) :
    (s.updateActive f).sp = s.sp := by unfold State.updateActive; split <;> rfl
@[simp] theorem State.updateActive_dt (f : {w h : Nat} → Buffer w h → Buffer w h) :
    (s.updateActive f).dt = s.dt := by unfold State.updateActive; split <;> rfl
@[simp] theorem State.updateActive_st (f : {w h : Nat} → Buffer w h → Buffer w h) :
    (s.updateActive f).st = s.st := by unfold State.updateActive; split <;> rfl
@[simp] theorem State.updateActive_key (f : {w h : Nat} → Buffer w h → Buffer w h) :
    (s.updateActive f).key = s.key := by unfold State.updateActive; split <;> rfl
@[simp] theorem State.updateActive_kw (f : {w h : Nat} → Buffer w h → Buffer w h) :
    (s.updateActive f).kw = s.kw := by unfold State.updateActive; split <;> rfl
@[simp] theorem State.updateActive_mode (f : {w h : Nat} → Buffer w h → Buffer w h) :
    (s.updateActive f).mode = s.mode := by unfold State.updateActive; split <;> rfl
@[simp] theorem State.updateActive_draws (f : {w h : Nat} → Buffer w h → Buffer w h) :
    (s.updateActive f).draws = s.draws := by unfold State.updateActive; split <;> rfl
@[simp] theorem State.updateActive_diag (f : {w h : Nat} → Buffer w h → Buffer w h) :
    (s.updateActive f).diag = s.diag := by unfold State.updateActive; split <;> rfl

@[simp] theorem State.draw_mem (x y : Reg) (rows : Nat) (row : Nat → BitVec sw) :
    (s.draw x y rows row).mem = s.mem := by unfold State.draw; split <;> rfl
@[simp] theorem State.draw_i (x y : Reg) (rows : Nat) (row : Nat → BitVec sw) :
    (s.draw x y rows row).i = s.i := by unfold State.draw; split <;> rfl
@[simp] theorem State.draw_pc (x y : Reg) (rows : Nat) (row : Nat → BitVec sw) :
    (s.draw x y rows row).pc = s.pc := by unfold State.draw; split <;> rfl
@[simp] theorem State.draw_stack (x y : Reg) (rows : Nat) (row : Nat → BitVec sw) :
    (s.draw x y rows row).stack = s.stack := by unfold State.draw; split <;> rfl
@[simp] theorem State.draw_sp (x y : Reg) (rows : Nat) (row : Nat → BitVec sw) :
    (s.draw x y rows row).sp = s.sp := by unfold State.draw; split <;> rfl
@[simp] theorem State.draw_dt (x y : Reg) (rows : Nat) (row : Nat → BitVec sw) :
    (s.draw x y rows row).dt = s.dt := by unfold State.draw; split <;> rfl
@[simp] theorem State.draw_st (x y : Reg) (rows : Nat) (row : Nat → BitVec sw) :
    (s.draw x y rows row).st = s.st := by unfold State.draw; split <;> rfl
@[simp] theorem State.draw_key (x y : Reg) (rows : Nat) (row : Nat → BitVec sw) :
    (s.draw x y rows row).key = s.key := by unfold State.draw; split <;> rfl
@[simp] theorem State.draw_kw (x y : Reg) (rows : Nat) (row : Nat → BitVec sw) :
    (s.draw x y rows row).kw = s.kw := by unfold State.draw; split <;> rfl
@[simp] theorem State.draw_mode (x y : Reg) (rows : Nat) (row : Nat → BitVec sw) :
    (s.draw x y rows row).mode = s.mode := by unfold State.draw; split <;> rfl
@[simp] theorem State.draw_draws (x y : Reg) (rows : Nat) (row : Nat → BitVec sw) :
    (s.draw x y rows row).draws = s.draws := by unfold State.draw; split <;> rfl
@[simp] theorem State.draw_diag (x y : Reg) (rows : Nat) (row : Nat → BitVec sw) :
    (s.draw x y rows row).diag = s.diag := by unfold State.draw; split <;> rfl

end Sys2Proof.Machine
end

