-- ==== Sys2Proof/Laws/PerInstr.lean ====
section
/-! SUPPORT. Statements for every instruction, one lemma for each constructor. Family `FitsRow`: the word an
instruction encodes to has the fixed digits of its own row of the opcode map (R65, R72). -/

namespace Sys2Proof.Laws

/-- The encoding of `i` is covered by the row of the map that carries its number; the catch-all row has none. -/
def FitsRow.Statement (i : Instr) : Prop :=
  i.rowNumber ≠ 42 → ∃ row ∈ opcodeRows, row.number = i.rowNumber ∧ row.covers (encode i) = true

theorem FitsRow.scd (n : Nibble) : Statement (.scd n) :=
  fun _ => ⟨⟨1, 0xFFF0, 0x00C0⟩, by decide, rfl, by revert n; decide⟩

theorem FitsRow.cls : Statement .cls :=
  fun _ => ⟨⟨2, 0xFFFF, 0x00E0⟩, by decide, rfl, by decide⟩

theorem FitsRow.ret : Statement .ret :=
  fun _ => ⟨⟨3, 0xFFFF, 0x00EE⟩, by decide, rfl, by decide⟩

theorem FitsRow.scr : Statement .scr :=
  fun _ => ⟨⟨4, 0xFFFF, 0x00FB⟩, by decide, rfl, by decide⟩

theorem FitsRow.scl : Statement .scl :=
  fun _ => ⟨⟨5, 0xFFFF, 0x00FC⟩, by decide, rfl, by decide⟩

theorem FitsRow.low : Statement .low :=
  fun _ => ⟨⟨6, 0xFFFF, 0x00FE⟩, by decide, rfl, by decide⟩

theorem FitsRow.high : Statement .high :=
  fun _ => ⟨⟨7, 0xFFFF, 0x00FF⟩, by decide, rfl, by decide⟩

theorem FitsRow.jp (nnn : Addr) : Statement (.jp nnn) :=
  fun _ => ⟨⟨8, 0xF000, 0x1000⟩, by decide, rfl, covers_of_fieldH rfl
    (by rw [encode, fieldH_wordA]; decide)⟩

theorem FitsRow.call (nnn : Addr) : Statement (.call nnn) :=
  fun _ => ⟨⟨9, 0xF000, 0x2000⟩, by decide, rfl, covers_of_fieldH rfl
    (by rw [encode, fieldH_wordA]; decide)⟩

theorem FitsRow.seImm (x : Reg) (kk : Byte) : Statement (.seImm x kk) :=
  fun _ => ⟨⟨10, 0xF000, 0x3000⟩, by decide, rfl, covers_of_fieldH rfl
    (by rw [encode, fieldH_wordXk]; decide)⟩

theorem FitsRow.sneImm (x : Reg) (kk : Byte) : Statement (.sneImm x kk) :=
  fun _ => ⟨⟨11, 0xF000, 0x4000⟩, by decide, rfl, covers_of_fieldH rfl
    (by rw [encode, fieldH_wordXk]; decide)⟩

theorem FitsRow.seReg (x y : Reg) : Statement (.seReg x y) :=
  fun _ => ⟨⟨12, 0xF00F, 0x5000⟩, by decide, rfl, covers_of_fieldH_fieldN rfl
    (by rw [encode, wordXyn, fieldH_wordOfDigits, fieldN_wordOfDigits]; decide)⟩

theorem FitsRow.ldImm (x : Reg) (kk : Byte) : Statement (.ldImm x kk) :=
  fun _ => ⟨⟨13, 0xF000, 0x6000⟩, by decide, rfl, covers_of_fieldH rfl
    (by rw [encode, fieldH_wordXk]; decide)⟩

theorem FitsRow.addImm (x : Reg) (kk : Byte) : Statement (.addImm x kk) :=
  fun _ => ⟨⟨14, 0xF000, 0x7000⟩, by decide, rfl, covers_of_fieldH rfl
    (by rw [encode, fieldH_wordXk]; decide)⟩

theorem FitsRow.ldReg (x y : Reg) : Statement (.ldReg x y) :=
  fun _ => ⟨⟨15, 0xF00F, 0x8000⟩, by decide, rfl, covers_of_fieldH_fieldN rfl
    (by rw [encode, wordXyn, fieldH_wordOfDigits, fieldN_wordOfDigits]; decide)⟩

theorem FitsRow.orReg (x y : Reg) : Statement (.orReg x y) :=
  fun _ => ⟨⟨16, 0xF00F, 0x8001⟩, by decide, rfl, covers_of_fieldH_fieldN rfl
    (by rw [encode, wordXyn, fieldH_wordOfDigits, fieldN_wordOfDigits]; decide)⟩

theorem FitsRow.andReg (x y : Reg) : Statement (.andReg x y) :=
  fun _ => ⟨⟨17, 0xF00F, 0x8002⟩, by decide, rfl, covers_of_fieldH_fieldN rfl
    (by rw [encode, wordXyn, fieldH_wordOfDigits, fieldN_wordOfDigits]; decide)⟩

theorem FitsRow.xorReg (x y : Reg) : Statement (.xorReg x y) :=
  fun _ => ⟨⟨18, 0xF00F, 0x8003⟩, by decide, rfl, covers_of_fieldH_fieldN rfl
    (by rw [encode, wordXyn, fieldH_wordOfDigits, fieldN_wordOfDigits]; decide)⟩

theorem FitsRow.addReg (x y : Reg) : Statement (.addReg x y) :=
  fun _ => ⟨⟨19, 0xF00F, 0x8004⟩, by decide, rfl, covers_of_fieldH_fieldN rfl
    (by rw [encode, wordXyn, fieldH_wordOfDigits, fieldN_wordOfDigits]; decide)⟩

theorem FitsRow.sub (x y : Reg) : Statement (.sub x y) :=
  fun _ => ⟨⟨20, 0xF00F, 0x8005⟩, by decide, rfl, covers_of_fieldH_fieldN rfl
    (by rw [encode, wordXyn, fieldH_wordOfDigits, fieldN_wordOfDigits]; decide)⟩

theorem FitsRow.shr (x y : Reg) : Statement (.shr x y) :=
  fun _ => ⟨⟨21, 0xF00F, 0x8006⟩, by decide, rfl, covers_of_fieldH_fieldN rfl
    (by rw [encode, wordXyn, fieldH_wordOfDigits, fieldN_wordOfDigits]; decide)⟩

theorem FitsRow.subn (x y : Reg) : Statement (.subn x y) :=
  fun _ => ⟨⟨22, 0xF00F, 0x8007⟩, by decide, rfl, covers_of_fieldH_fieldN rfl
    (by rw [encode, wordXyn, fieldH_wordOfDigits, fieldN_wordOfDigits]; decide)⟩

theorem FitsRow.shl (x y : Reg) : Statement (.shl x y) :=
  fun _ => ⟨⟨23, 0xF00F, 0x800E⟩, by decide, rfl, covers_of_fieldH_fieldN rfl
    (by rw [encode, wordXyn, fieldH_wordOfDigits, fieldN_wordOfDigits]; decide)⟩

theorem FitsRow.sneReg (x y : Reg) : Statement (.sneReg x y) :=
  fun _ => ⟨⟨24, 0xF00F, 0x9000⟩, by decide, rfl, covers_of_fieldH_fieldN rfl
    (by rw [encode, wordXyn, fieldH_wordOfDigits, fieldN_wordOfDigits]; decide)⟩

theorem FitsRow.ldI (nnn : Addr) : Statement (.ldI nnn) :=
  fun _ => ⟨⟨25, 0xF000, 0xA000⟩, by decide, rfl, covers_of_fieldH rfl
    (by rw [encode, fieldH_wordA]; decide)⟩

theorem FitsRow.jpV0 (nnn : Addr) : Statement (.jpV0 nnn) :=
  fun _ => ⟨⟨26, 0xF000, 0xB000⟩, by decide, rfl, covers_of_fieldH rfl
    (by rw [encode, fieldH_wordA]; decide)⟩

theorem FitsRow.rnd (x : Reg) (kk : Byte) : Statement (.rnd x kk) :=
  fun _ => ⟨⟨27, 0xF000, 0xC000⟩, by decide, rfl, covers_of_fieldH rfl
    (by rw [encode, fieldH_wordXk]; decide)⟩

theorem FitsRow.drwSuper (x y : Reg) : Statement (.drwSuper x y) :=
  fun _ => ⟨⟨28, 0xF00F, 0xD000⟩, by decide, rfl, covers_of_fieldH_fieldN rfl
    (by rw [encode, wordXyn, fieldH_wordOfDigits, fieldN_wordOfDigits]; decide)⟩

theorem FitsRow.drw (x y : Reg) (n : Nibble) : Statement (.drw x y n) :=
  fun _ => ⟨⟨29, 0xF000, 0xD000⟩, by decide, rfl, covers_of_fieldH rfl
    (by rw [encode, wordXyn, fieldH_wordOfDigits]; decide)⟩

theorem FitsRow.skp (x : Reg) : Statement (.skp x) :=
  fun _ => ⟨⟨30, 0xF0FF, 0xE09E⟩, by decide, rfl, covers_of_fieldH_fieldKk rfl
    (by rw [encode, fieldH_wordXk, fieldKk_wordXk]; decide)⟩

theorem FitsRow.sknp (x : Reg) : Statement (.sknp x) :=
  fun _ => ⟨⟨31, 0xF0FF, 0xE0A1⟩, by decide, rfl, covers_of_fieldH_fieldKk rfl
    (by rw [encode, fieldH_wordXk, fieldKk_wordXk]; decide)⟩

theorem FitsRow.ldVxDt (x : Reg) : Statement (.ldVxDt x) :=
  fun _ => ⟨⟨32, 0xF0FF, 0xF007⟩, by decide, rfl, covers_of_fieldH_fieldKk rfl
    (by rw [encode, fieldH_wordXk, fieldKk_wordXk]; decide)⟩

theorem FitsRow.ldVxK (x : Reg) : Statement (.ldVxK x) :=
  fun _ => ⟨⟨33, 0xF0FF, 0xF00A⟩, by decide, rfl, covers_of_fieldH_fieldKk rfl
    (by rw [encode, fieldH_wordXk, fieldKk_wordXk]; decide)⟩

theorem FitsRow.ldDtVx (x : Reg) : Statement (.ldDtVx x) :=
  fun _ => ⟨⟨34, 0xF0FF, 0xF015⟩, by decide, rfl, covers_of_fieldH_fieldKk rfl
    (by rw [encode, fieldH_wordXk, fieldKk_wordXk]; decide)⟩

theorem FitsRow.ldStVx (x : Reg) : Statement (.ldStVx x) :=
  fun _ => ⟨⟨35, 0xF0FF, 0xF018⟩, by decide, rfl, covers_of_fieldH_fieldKk rfl
    (by rw [encode, fieldH_wordXk, fieldKk_wordXk]; decide)⟩

theorem FitsRow.addI (x : Reg) : Statement (.addI x) :=
  fun _ => ⟨⟨36, 0xF0FF, 0xF01E⟩, by decide, rfl, covers_of_fieldH_fieldKk rfl
    (by rw [encode, fieldH_wordXk, fieldKk_wordXk]; decide)⟩

theorem FitsRow.ldF (x : Reg) : Statement (.ldF x) :=
  fun _ => ⟨⟨37, 0xF0FF, 0xF029⟩, by decide, rfl, covers_of_fieldH_fieldKk rfl
    (by rw [encode, fieldH_wordXk, fieldKk_wordXk]; decide)⟩

theorem FitsRow.ldHf (x : Reg) : Statement (.ldHf x) :=
  fun _ => ⟨⟨38, 0xF0FF, 0xF030⟩, by decide, rfl, covers_of_fieldH_fieldKk rfl
    (by rw [encode, fieldH_wordXk, fieldKk_wordXk]; decide)⟩

theorem FitsRow.ldB (x : Reg) : Statement (.ldB x) :=
  fun _ => ⟨⟨39, 0xF0FF, 0xF033⟩, by decide, rfl, covers_of_fieldH_fieldKk rfl
    (by rw [encode, fieldH_wordXk, fieldKk_wordXk]; decide)⟩

theorem FitsRow.storeRegs (x : Reg) : Statement (.storeRegs x) :=
  fun _ => ⟨⟨40, 0xF0FF, 0xF055⟩, by decide, rfl, covers_of_fieldH_fieldKk rfl
    (by rw [encode, fieldH_wordXk, fieldKk_wordXk]; decide)⟩

theorem FitsRow.loadRegs (x : Reg) : Statement (.loadRegs x) :=
  fun _ => ⟨⟨41, 0xF0FF, 0xF065⟩, by decide, rfl, covers_of_fieldH_fieldKk rfl
    (by rw [encode, fieldH_wordXk, fieldKk_wordXk]; decide)⟩

theorem FitsRow.unknown (op : Word) : Statement (.unknown op) := fun h => absurd rfl h

end Sys2Proof.Laws
end

