-- ==== Sys2Proof/Tests/Slice0.lean ====
section
/-! SUPPORT. Tests of the model on single steps, and for each statement of Certificates/Slice0/Obligations.lean a state
and operands that meet its hypotheses. Expected values are those of spec/95_test_vectors.md (the vector is named) or
worked out by hand from the rule that is named; none was read off the model. The font bytes are free values, so no
test reads one. -/

namespace Sys2Proof.Tests

open Sys2Proof Sys2Proof.Machine

/-! ## Helpers -/

/-- The state with a word at `PC`. -/
def put (w : Nat) (s : State) : State := s.withFetchWord 16 w

/-- The reset state with `V0`, `V1` and `VF = 5`, as the tables of spec/95_test_vectors.md section 2.4 start. -/
def regs (v0 v1 : Byte) : State := ((State.reset.setReg 0 v0).setReg 1 v1).setReg 15 5

/-- The reset state with some memory bytes listed. -/
def bytesAt (m : Memory) : State := { State.reset with mem := m }

/-- What an outcome holds of its next state; `false` of a stop. -/
def gives (o : Outcome) (p : State → Bool) : Bool :=
  match o with
  | .next t => p t
  | .fault _ => false
  | .refused _ => false

/-- One step of a word placed at `PC`. -/
def runs (w : Nat) (s : State) (p : State → Bool) : Bool := gives (step (put w s)) p

/-- The next state of an outcome, the reset state for a stop. -/
def nextOf (o : Outcome) : State :=
  match o with
  | .next t => t
  | .fault _ => State.reset
  | .refused _ => State.reset

/-- `V0`, `V1`, `VF` and `PC` after a step, as the tables of section 2.4 give them (`PC = 0x202` in every row). -/
def leaves (v0 v1 vf : Byte) (t : State) : Bool := t.reg 0 == v0 && t.reg 1 == v1 && t.reg 15 == vf && t.pc == 0x202

/-! ## Well-formedness: the ill-formed terms are refused -/

/-- `Dxyn` with `n = 0` is not `DRW` but the super sprite (R69, R138). -/
theorem test_wellFormed_refuses_drw_zero : ¬ (Instr.drw 0 0 0).WellFormed := by decide

/-- The catch-all does not hold a word of the map: `00E0` is `CLS` (R65). -/
theorem test_wellFormed_refuses_unknown_known : ¬ (Instr.unknown 0x00E0).WellFormed := by decide

theorem test_wellFormed_accepts_neighbours : (Instr.drw 0 0 1).WellFormed ∧ (Instr.unknown 0x00E1).WellFormed := by
  decide

/-! ## Decoding: words written out from the patterns of R65 -/

theorem test_decode_family0 :
    decode 0x00CF = .scd 0xF ∧ decode 0x00E0 = .cls ∧ decode 0x00EE = .ret ∧ decode 0x00FB = .scr ∧
    decode 0x00FC = .scl ∧ decode 0x00FE = .low ∧ decode 0x00FF = .high := by decide

theorem test_decode_families1to7 :
    decode 0x1234 = .jp 0x234 ∧ decode 0x2ABC = .call 0xABC ∧ decode 0x3012 = .seImm 0 0x12 ∧
    decode 0x4F01 = .sneImm 15 1 ∧ decode 0x5120 = .seReg 1 2 ∧ decode 0x60AB = .ldImm 0 0xAB ∧
    decode 0x7001 = .addImm 0 1 := by decide

theorem test_decode_family8 :
    decode 0x8AB0 = .ldReg 10 11 ∧ decode 0x8AB1 = .orReg 10 11 ∧ decode 0x8AB2 = .andReg 10 11 ∧
    decode 0x8AB3 = .xorReg 10 11 ∧ decode 0x8AB4 = .addReg 10 11 ∧ decode 0x8AB5 = .sub 10 11 ∧
    decode 0x8AB6 = .shr 10 11 ∧ decode 0x8AB7 = .subn 10 11 ∧ decode 0x8ABE = .shl 10 11 := by decide

theorem test_decode_families9toE :
    decode 0x9120 = .sneReg 1 2 ∧ decode 0xAFFF = .ldI 0xFFF ∧ decode 0xB300 = .jpV0 0x300 ∧
    decode 0xC30F = .rnd 3 0xF ∧ decode 0xD010 = .drwSuper 0 1 ∧ decode 0xD015 = .drw 0 1 5 ∧
    decode 0xE09E = .skp 0 ∧ decode 0xE0A1 = .sknp 0 := by decide

theorem test_decode_familyF :
    decode 0xF407 = .ldVxDt 4 ∧ decode 0xF30A = .ldVxK 3 ∧ decode 0xF015 = .ldDtVx 0 ∧ decode 0xF018 = .ldStVx 0 ∧
    decode 0xF21E = .addI 2 ∧ decode 0xF029 = .ldF 0 ∧ decode 0xF030 = .ldHf 0 ∧ decode 0xF033 = .ldB 0 ∧
    decode 0xF255 = .storeRegs 2 ∧ decode 0xF165 = .loadRegs 1 := by decide

/-- V-U2: words of no row. -/
theorem test_decode_unknown :
    ([0x00FD, 0x00E1, 0x00BF, 0x00D0, 0x8018, 0x801F, 0xE09F, 0xE000, 0xF000, 0xF002, 0xF01F, 0xF075, 0xF085].all
      fun w : Word => decode w == .unknown w) = true := by decide

/-- V-U3: words with one wrong fixed digit (D3). -/
theorem test_decode_strict :
    ([0x01E0, 0x0FEE, 0x5001, 0x5121, 0x900F].all fun w : Word => decode w == .unknown w) = true := by decide

/-! ## Fetch -/

/-- V-F1. -/
theorem test_fetch_wraps_from_ffe :
    gives (step { bytesAt [(0xFFE, 0x60), (0xFFF, 0x12)] with pc := 0xFFE })
      (fun t => t.reg 0 == 0x12 && t.pc == 0) = true := by decide

/-- V-F2. -/
theorem test_fetch_wraps_from_fff :
    gives (step { bytesAt [(0, 0x34), (0xFFF, 0x61)] with pc := 0xFFF })
      (fun t => t.reg 1 == 0x34 && t.pc == 1) = true := by decide

/-- V-F3. -/
theorem test_fetch_reduces_pc :
    gives (step { bytesAt [(0x200, 0x61), (0x201, 0x07)] with pc := 0x1200 })
      (fun t => t.reg 1 == 7 && t.pc == 0x202) = true := by decide

/-- V-U1. -/
theorem test_unknown_reports : runs 0x0000 State.reset (fun t => t.diag == [0] && t.pc == 0x202) = true := by decide

/-- V-U2, the word `F075`. -/
theorem test_unknown_changes_nothing :
    runs 0xF075 (regs 1 2) (fun t => t.diag == [0xF075] && leaves 1 2 5 t) = true := by decide

/-! ## Family 0 -/

/-- The low buffer with one row set. -/
def loRow (r : Fin 32) (row : BitVec 64) (s : State) : State := s.setLo (s.lo.set r row)

/-- The high buffer with one row set, in high resolution. -/
def hiRow (r : Fin 64) (row : BitVec 128) (s : State) : State := (s.setHi (s.hi.set r row)).setMode .highRes

/-- V-Z1, two of its rows: what stood in rows 0 and 16 is in rows 15 and 31. -/
theorem test_scd_rows :
    runs 0x00CF (loRow 0 1 (loRow 16 17 State.reset))
      (fun t => t.lo[0] == 0 && t.lo[15] == 1 && t.lo[16] == 0 && t.lo[31] == 17 && t.pc == 0x202) = true := by decide

/-- V-U5: `00C0` is known and moves nothing. -/
theorem test_scd_zero : runs 0x00C0 (loRow 31 7 State.reset) (fun t => t.lo[31] == 7 && t.diag == []) = true := by
  decide

/-- V-Z6. -/
theorem test_cls_active_only :
    runs 0x00E0 (loRow 0 0x55 (hiRow 63 1 State.reset)) (fun t => t.hi[63] == 0 && t.lo[0] == 0x55) = true := by decide

/-- V-Z9. -/
theorem test_ret_pops :
    runs 0x00EE { State.reset with sp := 1, stack := State.reset.stack.set 0 0x0206 }
      (fun t => t.sp == 0 && t.pc == 0x206 && t.stack[0] == 0x206) = true := by decide

/-- V-Z10. -/
theorem test_ret_wraps : runs 0x00EE State.reset (fun t => t.sp == 15 && t.pc == 0) = true := by decide

/-- V-Z2, rows 0 and 48. -/
theorem test_scr_high :
    runs 0x00FB (hiRow 0 0xF000000000000000000000000000000F (hiRow 48 3 State.reset))
      (fun t => t.hi[0] == 0x0F000000000000000000000000000000 && t.hi[48] == 0) = true := by decide

/-- V-Z5, the right scroll. -/
theorem test_scr_low :
    runs 0x00FB (loRow 5 0xF00000000000000F State.reset) (fun t => t.lo[5] == 0x0F00000000000000) = true := by decide

/-- V-Z3. -/
theorem test_scl_high :
    runs 0x00FC (hiRow 0 0x0F000000000000000000000000000000 State.reset)
      (fun t => t.hi[0] == 0xF0000000000000000000000000000000) = true := by decide

/-- V-Z5, the left scroll. -/
theorem test_scl_low :
    runs 0x00FC (loRow 5 0xF00000000000000F State.reset) (fun t => t.lo[5] == 0x00000000000000F0) = true := by decide

/-- V-Z7. -/
theorem test_low_no_change :
    runs 0x00FE (loRow 0 0xFF State.reset) (fun t => t.lo[0] == 0xFF && t.mode == .lowRes) = true := by decide

/-- V-Z8, its third step. -/
theorem test_low_clears :
    runs 0x00FE (loRow 0 0xFF (hiRow 1 0xBB State.reset))
      (fun t => t.mode == .lowRes && t.lo[0] == 0 && t.hi[1] == 0xBB) = true := by decide

/-- V-Z8, its first step. -/
theorem test_high_clears :
    runs 0x00FF (loRow 0 0xFF ((hiRow 0 0xAA State.reset).setMode .lowRes))
      (fun t => t.mode == .highRes && t.hi[0] == 0 && t.lo[0] == 0xFF) = true := by decide

/-- V-Z8, its second step. -/
theorem test_high_no_change :
    runs 0x00FF (hiRow 1 0xBB State.reset) (fun t => t.hi[1] == 0xBB && t.mode == .highRes) = true := by decide

/-! ## Control transfer -/

/-- V-F4. -/
theorem test_jp : runs 0x1234 State.reset (fun t => t.pc == 0x234) = true := by decide

/-- V-C3. -/
theorem test_call : runs 0x2ABC State.reset (fun t => t.stack[0] == 0x202 && t.sp == 1 && t.pc == 0xABC) = true := by
  decide

/-- V-C4. -/
theorem test_call_wraps :
    gives (step { bytesAt [(0xFFE, 0x23)] with pc := 0xFFE, sp := 15 })
      (fun t => t.stack[15] == 0 && t.sp == 0 && t.pc == 0x300) = true := by decide

/-- V-C5 and V-C6. -/
theorem test_seImm :
    runs 0x3012 (regs 0x12 0) (fun t => t.pc == 0x204) = true ∧
    runs 0x3012 (regs 0x13 0) (fun t => t.pc == 0x202) = true := by decide

/-- V-C12 and V-C13: a skip leaves the address range, the advance does not. -/
theorem test_seImm_at_the_top :
    gives (step { bytesAt [(0xFFC, 0x30)] with pc := 0xFFC }) (fun t => t.pc == 0x1000) = true ∧
    gives (step { bytesAt [(0xFFE, 0x30)] with pc := 0xFFE }) (fun t => t.pc == 0x002) = true := by decide

/-- V-C7. -/
theorem test_sneImm :
    runs 0x4012 (regs 0x12 0) (fun t => t.pc == 0x202) = true ∧
    runs 0x4012 (regs 0x13 0) (fun t => t.pc == 0x204) = true := by decide

/-- V-C8 and V-C9. -/
theorem test_seReg :
    runs 0x5120 (State.reset.setReg 1 9) (fun t => t.pc == 0x202) = true ∧
    runs 0x5120 ((State.reset.setReg 1 9).setReg 2 9) (fun t => t.pc == 0x204) = true ∧
    runs 0x5110 (State.reset.setReg 1 9) (fun t => t.pc == 0x204) = true := by decide

/-- V-C10 and V-C11. -/
theorem test_sneReg :
    runs 0x9120 ((State.reset.setReg 1 9).setReg 2 9) (fun t => t.pc == 0x202) = true ∧
    runs 0x9120 ((State.reset.setReg 1 9).setReg 2 8) (fun t => t.pc == 0x204) = true ∧
    runs 0x9110 (State.reset.setReg 1 9) (fun t => t.pc == 0x202) = true := by decide

/-- V-C14 and V-C15. -/
theorem test_jpV0 :
    runs 0xB300 (regs 4 0) (fun t => t.pc == 0x304) = true ∧
    runs 0xBFFF (regs 0xFF 0) (fun t => t.pc == 0x10FE) = true := by decide

/-! ## Arithmetic and logic: the table of section 2.4 -/

/-- V-A19. -/
theorem test_ldImm : runs 0x60AB (regs 0 0) (leaves 0xAB 0 5) = true := by decide

/-- V-A17. -/
theorem test_addImm : runs 0x70FF (regs 2 0) (leaves 1 0 5) = true := by decide

/-- V-A18. -/
theorem test_addImm_wraps : runs 0x7001 (regs 0xFF 0) (leaves 0 0 5) = true := by decide

/-- V-A1. -/
theorem test_ldReg : runs 0x8010 (regs 0x11 0x22) (leaves 0x22 0x22 5) = true := by decide

/-- V-A27. -/
theorem test_ldReg_vf : runs 0x8F10 (regs 0 0x77) (leaves 0 0x77 0x77) = true := by decide

/-- V-A2. -/
theorem test_orReg : runs 0x8011 (regs 0xF0 0x0F) (leaves 0xFF 0x0F 0) = true := by decide

/-- V-A26. -/
theorem test_orReg_vf : runs 0x8F11 (regs 0 0xF0) (leaves 0 0xF0 0) = true := by decide

/-- V-A3. -/
theorem test_andReg : runs 0x8012 (regs 0xF0 0x3C) (leaves 0x30 0x3C 0) = true := by decide

/-- V-A4. -/
theorem test_xorReg : runs 0x8013 (regs 0xFF 0xFF) (leaves 0 0xFF 0) = true := by decide

/-- V-A5 and V-A6. -/
theorem test_addReg :
    runs 0x8014 (regs 0xFF 1) (leaves 0 1 1) = true ∧ runs 0x8014 (regs 0x80 0x7F) (leaves 0xFF 0x7F 0) = true := by
  decide

/-- V-A20 and V-A28: the flag is written last, and read first. -/
theorem test_addReg_vf :
    runs 0x8F14 ((regs 0 2).setReg 15 0xFF) (leaves 0 2 1) = true ∧
    runs 0x80F4 ((regs 0xFF 0).setReg 15 1) (leaves 0 0 1) = true := by decide

/-- V-A8 and V-A9. -/
theorem test_sub :
    runs 0x8015 (regs 5 5) (leaves 0 5 1) = true ∧ runs 0x8015 (regs 0 1) (leaves 0xFF 1 0) = true := by decide

/-- V-A22. -/
theorem test_sub_vf : runs 0x8F15 ((regs 0 2).setReg 15 1) (leaves 0 2 0) = true := by decide

/-- V-A10 and V-A11. -/
theorem test_shr :
    runs 0x8016 (regs 3 0xAA) (leaves 1 0xAA 1) = true ∧ runs 0x8016 (regs 0x80 0) (leaves 0x40 0 0) = true := by decide

/-- V-A24. -/
theorem test_shr_vf : runs 0x8F16 ((regs 0 0).setReg 15 3) (leaves 0 0 1) = true := by decide

/-- V-A12 and V-A13. -/
theorem test_subn :
    runs 0x8017 (regs 5 3) (leaves 0xFE 3 0) = true ∧ runs 0x8017 (regs 3 5) (leaves 2 5 1) = true := by decide

/-- V-A23. -/
theorem test_subn_vf : runs 0x8F17 ((regs 0 2).setReg 15 1) (leaves 0 2 1) = true := by decide

/-- V-A15 and V-A16. -/
theorem test_shl :
    runs 0x801E (regs 0x81 0x55) (leaves 2 0x55 1) = true ∧ runs 0x801E (regs 0x40 0) (leaves 0x80 0 0) = true := by
  decide

/-- V-A25. -/
theorem test_shl_vf :
    runs 0x8F1E ((regs 0 0).setReg 15 0x80) (leaves 0 0 1) = true ∧
    runs 0x8F1E ((regs 0 0).setReg 15 0x7F) (leaves 0 0 0) = true := by decide

/-- V-A32 with the source's byte left free: whatever it is, `V3` is that byte's low digit (R122). -/
theorem test_rnd_masks : (nextOf (exec (.rnd 3 0x0F) State.reset)).reg 3 = Config.rnd 0 &&& 0x0F := by rfl

/-- V-A34. -/
theorem test_rnd_zero : (nextOf (exec (.rnd 3 0) State.reset)).reg 3 = 0 := by
  show Config.rnd 0 &&& 0#8 = 0
  simp

/-! ## Index and memory -/

/-- V-M1. -/
theorem test_ldI : runs 0xAFFF State.reset (fun t => t.i == 0x0FFF) = true := by decide

/-- V-M4 and V-M5. -/
theorem test_addI :
    runs 0xF21E ({ State.reset with i := 0xFFFF }.setReg 2 1) (fun t => t.i == 0 && t.reg 15 == 0) = true ∧
    runs 0xF21E ({ State.reset with i := 0x0FF0 }.setReg 2 0xFF) (fun t => t.i == 0x10EF) = true := by decide

/-- V-M6. -/
theorem test_ldF :
    runs 0xF029 (regs 0x0F 0) (fun t => t.i == 0x4B) = true ∧ runs 0xF029 (regs 0x1A 0) (fun t => t.i == 0x32) = true := by
  decide

/-- V-M7. -/
theorem test_ldHf :
    runs 0xF030 (regs 0x0F 0) (fun t => t.i == 0xE6) = true ∧ runs 0xF030 (regs 0x1A 0) (fun t => t.i == 0xB4) = true := by
  decide

/-- V-M10: 255 at `I = 0x1300`, which addresses 0x300. -/
theorem test_ldB :
    runs 0xF033 { regs 255 0 with i := 0x1300 }
      (fun t => t.memRead 0x300 == 2 && t.memRead 0x301 == 5 && t.memRead 0x302 == 5 && t.i == 0x1300) = true := by
  decide

/-- V-M9, the value 7 over bytes 9, 9, 9. -/
theorem test_ldB_zeros :
    runs 0xF033 { regs 7 0 with i := 0x300, mem := [(0x300, 9), (0x301, 9), (0x302, 9)] }
      (fun t => t.memRead 0x300 == 0 && t.memRead 0x301 == 0 && t.memRead 0x302 == 7 && t.mem.wf) = true := by decide

/-- V-M11: the block wraps from 0xFFF to 0x000. -/
theorem test_storeRegs_wraps :
    ((State.reset.storeBytes 0xFFE [0xAA, 0xBB, 0xCC]).memRead 0x000 = 0xCC) ∧
    (exec (.storeRegs 2) { ((State.reset.setReg 0 0xAA).setReg 1 0xBB).setReg 2 0xCC with i := 0x0FFE } =
      .next ({ ((State.reset.setReg 0 0xAA).setReg 1 0xBB).setReg 2 0xCC with i := 0x0FFE }.storeBytes 0xFFE
        [0xAA, 0xBB, 0xCC])) :=
  ⟨State.memRead_storeBytes_inside (s := State.reset) 0xFFE [0xAA, 0xBB, 0xCC] (by decide) 2 (by decide), rfl⟩

/-- V-M15, its first step. -/
theorem test_storeRegs_next_word :
    runs 0xF055 { regs 0x12 0 with i := 0x202 } (fun t => t.fetchWord == 0x1200 && t.i == 0x202) = true := by decide

/-- V-M13, its first and last register, and V-M12's form: the registers above `x` stay. -/
theorem test_loadRegs :
    gives (exec (.loadRegs 15) { bytesAt [(0x400, 0xA0), (0x40F, 0xAF)] with i := 0x400 })
      (fun t => t.reg 0 == 0xA0 && t.reg 15 == 0xAF && t.i == 0x400) = true ∧
    gives (exec (.loadRegs 1) { regs 1 2 with i := 0x400 })
      (fun t => t.reg 0 == 0 && t.reg 1 == 0 && t.reg 15 == 5) = true := by decide

/-! ## Draw -/

/-- Sprite data at 0x300, `I = 0x300`, and the coordinates in `V0` and `V1`. -/
def sprite (data : List Byte) (v0 v1 : Byte) : State := { (regs v0 v1).storeBytes 0x300 data with i := 0x300 }

/-- V-D1. -/
theorem test_drw_clips_right :
    runs 0xD015 (sprite [0xFF, 0xFF, 0xFF, 0xFF, 0xFF] 60 0)
      (fun t => t.lo[0] == 0xF && t.lo[4] == 0xF && t.lo[5] == 0 && t.reg 15 == 0) = true := by decide

/-- V-D4, its second step. -/
theorem test_drw_collides :
    runs 0xD011 (loRow 0 0xC000000000000000 (sprite [0xC0] 1 0))
      (fun t => t.lo[0] == 0xA000000000000000 && t.reg 15 == 1) = true := by decide

/-- V-D13. -/
theorem test_drwSuper_high :
    runs 0xD010 ((sprite [0x80, 0x01] 0 0).setMode .highRes)
      (fun t => t.hi[0] == 0x80010000000000000000000000000000 && t.reg 15 == 0) = true := by decide

/-- V-D15, row 30: a super sprite in low resolution is clipped at both edges (its data here two rows). -/
theorem test_drwSuper_low :
    runs 0xD010 (sprite [0xFF, 0xFF, 0xFF, 0xFF] 56 30)
      (fun t => t.lo[30] == 0xFF && t.lo[31] == 0xFF && t.lo[0] == 0 && t.reg 15 == 0) = true := by decide

/-! ## Keys and timers -/

/-- V-K1 and V-K2: the key is the low digit of `V0`. -/
theorem test_skp :
    runs 0xE09E ((regs 0x13 0).setKey 3 true) (fun t => t.pc == 0x204) = true ∧
    runs 0xE09E (regs 5 0) (fun t => t.pc == 0x202) = true := by decide

/-- V-K2 and V-K3. -/
theorem test_sknp :
    runs 0xE0A1 (regs 5 0) (fun t => t.pc == 0x204) = true ∧
    runs 0xE0A1 ((regs 5 0).setKey 5 true) (fun t => t.pc == 0x202) = true := by decide

/-- V-K4. -/
theorem test_ldVxDt : runs 0xF407 (State.reset.setDt 3) (fun t => t.reg 4 == 3) = true := by decide

/-- V-K5, the delay timer. -/
theorem test_ldDtVx : runs 0xF015 (regs 5 0) (fun t => t.dt == 5 && t.st == 0) = true := by decide

/-- V-K5, the sound timer. -/
theorem test_ldStVx : runs 0xF018 (regs 2 0) (fun t => t.st == 2 && t.dt == 0 && soundLevel t) = true := by decide

/-- V-K10: the rewind over address 0 leaves `PC = 0xFFFF`. -/
theorem test_ldVxK_begins :
    gives (step { bytesAt [(0, 0x0A), (0xFFF, 0xF3)] with pc := 0xFFF })
      (fun t => t.pc == 0xFFFF && t.kw == .awaitingRelease 3) = true := by decide

/-- V-K6, its step. -/
theorem test_ldVxK_ends :
    runs 0xF30A (State.reset.setKw .captured) (fun t => t.pc == 0x202 && t.kw == .idle) = true := by decide

/-- V-K6, its second event. -/
theorem test_release_captures :
    (keyEvent 7 false (State.reset.setKw (.awaitingRelease 3))).reg 3 = 7 ∧
    (keyEvent 7 false (State.reset.setKw (.awaitingRelease 3))).kw = .captured := by decide

/-- V-T1 and V-T3. -/
theorem test_tick :
    (tick State.reset).dt = 0 ∧ (tick { State.reset with dt := 255, st := 2 }).dt = 254 ∧
    (tick { State.reset with dt := 255, st := 2 }).st = 1 := by decide

/-- V-L5, the load of one byte. -/
theorem test_load_odd : (load [0x60] (regs 1 2)).2.fetchWord = 0x6000 ∧ (load [0x60] (regs 1 2)).1 = true := by decide

/-- V-L6. -/
theorem test_reset_runs_no_program : gives (step State.reset) (fun t => t.diag == [0] && t.pc == 0x202) = true := by
  decide

/-! ## Witnesses: states and operands that meet the hypotheses of each statement, clause by clause, at the ends of
the ranges -/

/-- A key wait in progress at 0x200, for `V3` (program P4 of spec/95_test_vectors.md after its third event, moved to
0x200). -/
def waiting : State := { bytesAt [(0x200, 0xF3), (0x201, 0x0A)] with kw := .awaitingRelease 3 }

theorem witness_DecodingAnEncodedInstructionGivesItBack :
    (Instr.drw 15 15 15).WellFormed ∧ (Instr.drw 0 0 1).WellFormed ∧ (Instr.unknown 0xFFFF).WellFormed := by decide

/-- The one overlap of the map: rows 28 and 29 both cover `D120`. -/
theorem witness_DecoderFollowsTheOpcodeMap :
    ∃ p ∈ opcodeRows, ∃ q ∈ opcodeRows, p.covers 0xD120 = true ∧ q.covers 0xD120 = true ∧ p.number < q.number := by
  decide

theorem witness_StepRunsTheInstructionAtPc :
    decodeBytes (waiting.memRead (waiting.pc.toNat % 4096)) (waiting.memRead (waiting.pc.toNat % 4096 + 1)) =
      .ldVxK 3 := by decide

theorem witness_NextFetchSeesABlockStore :
    (1 : Reg) ≤ 1 ∧ (1 : Reg) ≤ 15 ∧
    ({ State.reset with i := 0xF200 } : State).i.toNat % 4096 = State.reset.pc.toNat % 4096 := by decide

theorem witness_StepKeepsTheInvariant :
    Inv waiting ∧ gives (step waiting) (fun t => t.kw == .awaitingRelease 3) = true := by
  refine ⟨⟨by decide, by unfold StackInRange; decide, .inl (by decide), ?_⟩, by decide⟩
  show waiting.fetchInstr = .ldVxK 3
  decide

/-- A state in a key wait meets the premises with each of the six events; and a state that a run reaches. -/
theorem witness_EveryEventKeepsTheInvariant :
    Inv waiting ∧ handle .step waiting = .next (nextOf (step waiting)) ∧ handle .tick waiting = .next (tick waiting) ∧
    handle (.keyEvent 15 false) waiting = .next (keyEvent 15 false waiting) ∧
    handle .reset waiting = .next (resetEvent waiting) ∧ handle (.load [0x60]) waiting = .next (load [0x60] waiting).2 ∧
    handle .observe waiting = .next waiting ∧ Reachable (nextOf (handleAll [.keyEvent 1 true, .tick] State.reset)) :=
  ⟨witness_StepKeepsTheInvariant.1, rfl, rfl, rfl, rfl, rfl, rfl, [.keyEvent 1 true, .tick], rfl⟩

theorem witness_WaitingStepsChangeNothing : Inv waiting ∧ waiting.kw = .awaitingRelease 3 :=
  ⟨witness_StepKeepsTheInvariant.1, rfl⟩

theorem witness_CanonicalMemoriesWithTheSameBytesAreEqual :
    Memory.wf [(240, 1), (4095, 1)] = true ∧ Memory.wf (Memory.write [(240, 1)] 0x1FFF 1) = true ∧
    ∀ a < 4096, Memory.read [(240, 1), (4095, 1)] a = (Memory.write [(240, 1)] 0x1FFF 1).read a := by
  refine ⟨by decide, by decide, fun a _ => ?_⟩
  have h : Memory.write [(240, 1)] 0x1FFF 1 = [(240, 1), (4095, 1)] := by decide
  rw [h]

theorem witness_EveryInstructionKeepsTheOtherParts :
    exec (.call 0xFFF) State.reset = .next (nextOf (exec (.call 0xFFF) State.reset)) := rfl

theorem witness_EveryInstructionKeepsTheOtherRegisters :
    exec (.loadRegs 14) State.reset = .next (nextOf (exec (.loadRegs 14) State.reset)) := rfl

theorem witness_FlagIsZeroOrOne : writesFlag (.drw 0 0 1) = true ∧ writesFlag (.shl 15 15) = true := by decide

/-- A step that meets both side clauses, and one that meets one of them. -/
theorem witness_StepsNeitherTickNorSampleKeys :
    gives (step waiting) (fun _ => true) = true ∧ (∀ x, waiting.fetchInstr ≠ .ldDtVx x) ∧
    (∀ x, waiting.fetchInstr ≠ .ldStVx x) ∧ (put 0xF015 State.reset).fetchInstr = .ldDtVx 0 ∧
    ∀ x, (put 0xF015 State.reset).fetchInstr ≠ .ldStVx x := by decide

theorem witness_MemoryReadsWhatWasWritten : 0x1000 % 4096 ≠ 0xFFF % 4096 ∧ 0x1001 % 4096 ≠ 0x2000 % 4096 := by decide

/-- The last row and the last column, in both modes. -/
theorem witness_pixelBounds :
    31 < State.reset.height ∧ 63 < State.reset.width ∧ 63 < (State.reset.setMode .highRes).height ∧
    127 < (State.reset.setMode .highRes).width := by decide

theorem witness_ModeSwitchBlanksTheNewBuffer :
    State.reset.mode = .lowRes ∧ (State.reset.setMode .highRes).mode = .highRes := by decide

theorem witness_RegisterSkips : (1 : Nibble) ≠ 0 ∧ (15 : Nibble) ≠ 0 := by decide

/-- A destination that is not `VF`: for the statements on logic, add, subtract and shift, and (both) for drawing
twice. -/
theorem witness_destinationIsNotVf : (0 : Reg) ≠ 15 ∧ (14 : Reg) ≠ 15 := by decide

/-- Indexes at the ends of a block of registers: for the statements on `Fx55` and `Fx65`. -/
theorem witness_blockBounds : (0 : Reg) ≤ 0 ∧ (15 : Reg) ≤ 15 ∧ (0 : Reg) < 1 ∧ (14 : Reg) < 15 := by decide

/-- A first draw lights a dark pixel and a second one at the same place meets it, for each width of sprite (hand-worked
from R137: the sprite `C0` at (1, 0) lights column 1, its super sprite too), and a sprite of no lit pixel meets none. -/
theorem witness_DrawingTwiceRestoresTheScreen :
    (∀ i ∈ [Instr.drw 0 1 1, Instr.drwSuper 0 1], gives (exec i (sprite [0xC0] 1 0))
      (fun t => !(sprite [0xC0] 1 0).pixel 1 0 && t.pixel 1 0 && t.reg 15 == 0 &&
        gives (exec i t) fun u => u.reg 15 == 1 && !u.pixel 1 0) = true) ∧
    gives (exec (.drw 0 1 1) (sprite [0x00] 1 0)) (fun t => gives (exec (.drw 0 1 1) t) fun u => u.reg 15 == 0) =
      true := by decide

theorem witness_KeySkips :
    (15 : Reg).val = ((regs 0x1F 0).reg 0).toNat % 16 ∧ (0 : Reg).val = ((regs 0 0).reg 0).toNat % 16 := by decide

theorem witness_KeyWaitInstruction :
    State.reset.kw = .idle ∧ waiting.kw = .awaitingRelease 3 ∧ (waiting.setKw .captured).kw = .captured := by decide

/-- The clauses of the statement on the key-wait machine: a step that is no `Fx0A`, each of the three sub-states, and
the longest program that loads. -/
theorem witness_KeyWaitTransitions :
    gives (step (put 0x00E0 waiting)) (fun _ => true) = true ∧ (∀ x, (put 0x00E0 waiting).fetchInstr ≠ .ldVxK x) ∧
    waiting.kw = .awaitingRelease 3 ∧ (State.reset.setKw .captured).kw = .captured ∧ State.reset.kw = .idle ∧
    (List.replicate 3584 (0xFF : Byte)).length ≤ 3584 := by
  simp only [List.length_replicate]
  decide

theorem witness_KeyWaitEndsOnARelease :
    waiting.kw = .awaitingRelease 3 ∧ waiting.fetchInstr = .ldVxK 3 ∧ waiting.keyDown 15 = false := by decide

/-- The clauses of the statement on key events: a release while a wait is in progress, a release with none, and a press
during one. -/
theorem witness_KeyEventLatchesAndCaptures :
    waiting.kw = .awaitingRelease 3 ∧ (∀ d, State.reset.kw ≠ .awaitingRelease d) ∧
    ((∀ d, waiting.kw ≠ .awaitingRelease d) ∨ true = true) := by decide

theorem witness_ResetValuesOfDecisionD11 : 240 ≤ 240 ∧ 240 ≤ 4095 ∧ 4095 < 4096 := by decide

/-- The longest program that loads, and the shortest; the bytes just before and just after a program. -/
theorem witness_ResetAndLoadStartAfresh :
    (List.replicate 3584 (0xFF : Byte)).length ≤ 3584 ∧ ([] : List Byte).length ≤ 3584 ∧
    3583 < (List.replicate 3584 (0xFF : Byte)).length ∧
    0x1FF < 0x200 ∧ 0x200 + ([0x60] : List Byte).length ≤ 0x201 := by
  simp only [List.length_replicate]
  decide

/-- A picture has rows: the top row of the blank low-resolution screen. -/
theorem witness_ObservationShowsTheActiveBuffer :
    ((List.range 64).map fun c => State.reset.pixel c 0) ∈ (observe State.reset).picture :=
  List.mem_map.2 ⟨0, by decide, rfl⟩

theorem witness_OversizeLoadChangesNothing : 3584 < (List.replicate 3585 (0xFF : Byte)).length := by
  simp only [List.length_replicate]
  decide

end Sys2Proof.Tests
end

section
/-! The rules of one byte of memory on the state (spec/20_memory.md), and the statement on them. -/

namespace Sys2Proof.Machine

variable (s : State)

@[simp] theorem State.memRead_mod (a : Nat) : s.memRead (a % Config.memSize) = s.memRead a := Memory.read_mod s.mem a

/-- R41 after R42: both addresses count modulo 4096. -/
theorem State.memRead_memWrite (a : Nat) (v : Byte) (b : Nat) :
    (s.memWrite a v).memRead b = if a % Config.memSize = b % Config.memSize then v else s.memRead b :=
  Memory.read_write s.mem a v b

theorem State.memRead_memWrite_same (a : Nat) (v : Byte) : (s.memWrite a v).memRead a = v := by
  rw [State.memRead_memWrite, if_pos rfl]

theorem State.memRead_memWrite_other {a b : Nat} (h : b % Config.memSize ≠ a % Config.memSize) (v : Byte) :
    (s.memWrite a v).memRead b = s.memRead b := by
  rw [State.memRead_memWrite, if_neg h.symm]

/-- The frame of every update of memory alone: `memWrite` and `storeBytes` are of this form. -/
theorem sameExcept_memory_withMem (m : Memory) : SameExcept [.memory] s { s with mem := m } := by
  intro p hp
  cases p with
  | memory => exact absurd (List.mem_singleton_self _) hp
  | registers => exact fun _ => rfl
  | stack => exact ⟨rfl, rfl⟩
  | index | pc | delayTimer | soundTimer | keys | keyWait | mode | lowBuffer | highBuffer | draws | diag => rfl

theorem State.memWrite_frame (a : Nat) (v : Byte) : SameExcept [.memory] s (s.memWrite a v) :=
  sameExcept_memory_withMem s (s.mem.write a v)

end Sys2Proof.Machine

namespace Sys2Proof.Proofs

open Sys2Proof.Machine

/-- Settles O19, from the read of one byte after a write of one byte and the frame of an update of memory alone. -/
theorem memoryReadsWhatWasWritten : Obligations.MemoryReadsWhatWasWritten :=
  ⟨fun s a => (s.memRead_mod a).symm, fun s a v =>
    ⟨s.memRead_memWrite_same a v, fun _ hb => s.memRead_memWrite_other hb v, s.memWrite_frame a v⟩⟩

end Sys2Proof.Proofs
end

section
/-! The rules of fetch and of one step (spec/40_fetch_decode_dispatch.md R81 to R84), and the statement on them. -/

namespace Sys2Proof.Machine

variable (s : State)

/-- R81's read: the two bytes at `PC` and `PC + 1`, high byte first, both addresses modulo 4096. -/
theorem State.fetchInstr_eq_decodeBytes :
    s.fetchInstr = decodeBytes (s.memRead (s.pc.toNat % 4096)) (s.memRead (s.pc.toNat % 4096 + 1)) := rfl

/-- R81's advance as an update of the state: it writes `PC` and nothing else. -/
theorem State.advancePc_eq :
    s.advancePc = { s with pc := BitVec.ofNat 16 ((s.pc.toNat % 4096 + 2) % 4096) } := rfl

/-- R84: once the fetched instruction is known, a step is its meaning in the advanced state. -/
theorem step_eq_exec_of_fetchInstr {s : State} {i : Instr} (h : s.fetchInstr = i) :
    step s = exec i s.advancePc := by
  rw [step, h]

end Sys2Proof.Machine

namespace Sys2Proof.Proofs

open Sys2Proof.Machine

/-- Settles O6, from the two bytes that fetch reads, the step at a known instruction and the advance of `PC`. -/
theorem stepRunsTheInstructionAtPc : Obligations.StepRunsTheInstructionAtPc := by
  intro s i hbytes
  have hfetch : s.fetchInstr = i := s.fetchInstr_eq_decodeBytes.trans hbytes
  rw [step_eq_exec_of_fetchInstr hfetch, s.advancePc_eq]

end Sys2Proof.Proofs
end

section
/-! The rules of the updates that family 0 is made of (spec/41_family0_display_control_return.md R90 to R96): the frame
of each named update, the pixels of the active buffer after an operation on it, and the pointer after a pop. -/

namespace Sys2Proof.Machine

/-! ## Frames -/

theorem SamePart.trans {s t u : State} {p : Part} (hst : SamePart s t p) (htu : SamePart t u p) : SamePart s u p := by
  cases p with
  | memory | registers => exact fun k => (htu k).trans (hst k)
  | stack => exact ⟨htu.1.trans hst.1, htu.2.trans hst.2⟩
  | _ => exact Eq.trans htu hst

/-- Two changes in a row change the parts of the first and the parts of the second. -/
theorem SameExcept.trans {ps qs : List Part} {s t u : State} (hst : SameExcept ps s t) (htu : SameExcept qs t u) :
    SameExcept (ps ++ qs) s u := by
  intro p hp
  rw [List.mem_append, not_or] at hp
  obtain ⟨hps, hqs⟩ := hp
  exact (hst p hps).trans (htu p hqs)

section Frames

variable (s : State)

theorem State.setPc_frame (w : Word) : SameExcept [.pc] s (s.setPc w) := by
  intro p hp
  cases p with
  | pc => exact absurd (List.mem_singleton_self _) hp
  | _ => simp [SamePart, State.memRead]

theorem State.dropTop_frame : SameExcept [.stack] s s.dropTop := by
  intro p hp
  cases p with
  | stack => exact absurd (List.mem_singleton_self _) hp
  | _ => simp [SamePart, State.memRead]

theorem State.setMode_frame (d : DisplayMode) : SameExcept [.mode] s (s.setMode d) := by
  intro p hp
  cases p with
  | mode => exact absurd (List.mem_singleton_self _) hp
  | _ => simp [SamePart, State.memRead]

theorem State.setLo_frame (b : Buffer 64 32) : SameExcept [.lowBuffer] s (s.setLo b) := by
  intro p hp
  cases p with
  | lowBuffer => exact absurd (List.mem_singleton_self _) hp
  | _ => simp [SamePart, State.memRead]

theorem State.setHi_frame (b : Buffer 128 64) : SameExcept [.highBuffer] s (s.setHi b) := by
  intro p hp
  cases p with
  | highBuffer => exact absurd (List.mem_singleton_self _) hp
  | _ => simp [SamePart, State.memRead]

/-- R27: an operation on the active buffer leaves the other buffer, and everything else, as it is. -/
theorem State.updateActive_frame (f : {w h : Nat} → Buffer w h → Buffer w h) :
    SameExcept [s.activePart] s (s.updateActive f) := by
  cases hm : s.mode with
  | lowRes =>
    rw [State.activePart, hm, State.updateActive_low hm]
    exact s.setLo_frame _
  | highRes =>
    rw [State.activePart, hm, State.updateActive_high hm]
    exact s.setHi_frame _

end Frames

/-! ## Pixels of one buffer -/

section Pixels

variable {w h : Nat} (buf : Buffer w h) {c r : Nat}

theorem bufferPixel_of_lt (hr : r < h) : bufferPixel buf c r = buf[r].getMsbD c := dif_pos hr

theorem bufferPixel_of_not_lt (hr : ¬ r < h) : bufferPixel buf c r = false := dif_neg hr

theorem bufferPixel_clearBuffer : bufferPixel (clearBuffer buf) c r = false := by
  by_cases hr : r < h
  · simp [bufferPixel_of_lt _ hr]
  · exact bufferPixel_of_not_lt _ hr

/-- R90 on one buffer. -/
theorem bufferPixel_scrollDown (n : Nat) (hr : r < h) :
    bufferPixel (scrollDown n buf) c r = (decide (n ≤ r) && bufferPixel buf c (r - n)) := by
  have hold : r - n < h := by omega
  rw [bufferPixel_of_lt _ hr, bufferPixel_of_lt _ hold, scrollDown_getElem]
  by_cases hn : n ≤ r <;> simp [hn]

/-- R93 on one buffer. -/
theorem bufferPixel_scrollRight (hc : c < w) :
    bufferPixel (scrollRight buf) c r = (decide (4 ≤ c) && bufferPixel buf (c - 4) r) := by
  by_cases hr : r < h
  · rw [bufferPixel_of_lt _ hr, bufferPixel_of_lt _ hr, scrollRight_getElem, getMsbD_shiftRight _ _ _ hc]
  · rw [bufferPixel_of_not_lt _ hr, bufferPixel_of_not_lt _ hr, Bool.and_false]

/-- R94 on one buffer; the pixels that move in from beyond the last column are dark, as every pixel off a row is. -/
theorem bufferPixel_scrollLeft :
    bufferPixel (scrollLeft buf) c r = (decide (c + 4 < w) && bufferPixel buf (c + 4) r) := by
  by_cases hr : r < h
  · rw [bufferPixel_of_lt _ hr, bufferPixel_of_lt _ hr, scrollLeft_getElem, BitVec.getMsbD_shiftLeft]
    by_cases hin : c + 4 < w
    · simp [hin]
    · simp [hin, BitVec.getMsbD_of_ge _ _ (Nat.le_of_not_lt hin)]
  · rw [bufferPixel_of_not_lt _ hr, bufferPixel_of_not_lt _ hr, Bool.and_false]

end Pixels

/-! ## The active buffer -/

/-- The active buffer at its own width and height (R27), so that a rule of one buffer carries over in both modes. -/
def State.activeBuffer : (s : State) → Buffer s.width s.height
  | { mode := .lowRes, lo, .. } => lo
  | { mode := .highRes, hi, .. } => hi

theorem State.pixel_eq : ∀ (s : State) (c r : Nat), s.pixel c r = bufferPixel s.activeBuffer c r
  | { mode := .lowRes, .. }, _, _ => rfl
  | { mode := .highRes, .. }, _, _ => rfl

theorem State.pixel_updateActive (f : {w h : Nat} → Buffer w h → Buffer w h) :
    ∀ (s : State) (c r : Nat), (s.updateActive f).pixel c r = bufferPixel (f s.activeBuffer) c r
  | { mode := .lowRes, .. }, _, _ => rfl
  | { mode := .highRes, .. }, _, _ => rfl

/-! ## A pop -/

theorem State.dropTop_sp_val (s : State) : s.dropTop.sp.val = (s.sp.val + 15) % 16 := by
  rw [State.dropTop_sp, Fin.val_sub]
  exact congrArg (· % 16) (Nat.add_comm 15 s.sp.val)

/-- R92's two writes, in either order: they touch different parts. -/
theorem State.dropTop_setPc_frame (s : State) (w : Word) : SameExcept [.pc, .stack] s (s.dropTop.setPc w) :=
  (s.setPc_frame w).trans (s.setPc w).dropTop_frame

end Sys2Proof.Machine

namespace Sys2Proof.Proofs

open Sys2Proof.Machine

/-- Settles O20, from the pixels of one buffer after a scroll down and the frame of an operation on the active one. -/
theorem scrollDownMovesRows : Obligations.ScrollDownMovesRows := by
  intro n s
  refine ⟨_, exec_scd s n, fun c r hr => ?_, s.updateActive_frame _⟩
  rw [State.pixel_updateActive, State.pixel_eq, bufferPixel_scrollDown _ _ hr]

/-- Settles O21, from the pixels of a cleared buffer and the frame of an operation on the active one. -/
theorem clearBlanksTheActiveBuffer : Obligations.ClearBlanksTheActiveBuffer := by
  intro s
  refine ⟨_, exec_cls s, fun c r => ?_, s.updateActive_frame _⟩
  rw [State.pixel_updateActive, bufferPixel_clearBuffer]

/-- Settles O22: the entry that a pop reads is the one its pointer ends at. -/
theorem returnPopsTheStack : Obligations.ReturnPopsTheStack :=
  fun s => ⟨_, exec_ret s, s.dropTop_sp_val, rfl, rfl, s.dropTop_setPc_frame s.top⟩

/-- Settles O23, from the pixels of one buffer after a scroll right and the frame of an operation on the active one. -/
theorem scrollRightMovesPixels : Obligations.ScrollRightMovesPixels := by
  intro s
  refine ⟨_, exec_scr s, fun c r hc => ?_, s.updateActive_frame _⟩
  rw [State.pixel_updateActive, State.pixel_eq, bufferPixel_scrollRight _ hc]

/-- Settles O24, from the pixels of one buffer after a scroll left and the frame of an operation on the active one. -/
theorem scrollLeftMovesPixels : Obligations.ScrollLeftMovesPixels := by
  intro s
  refine ⟨_, exec_scl s, fun c r _ => ?_, s.updateActive_frame _⟩
  rw [State.pixel_updateActive, State.pixel_eq, bufferPixel_scrollLeft]

/-- Settles O25: a switch writes the mode and then the buffer it activates, and asked for its own mode it writes
nothing. -/
theorem modeSwitchBlanksTheNewBuffer : Obligations.ModeSwitchBlanksTheNewBuffer := by
  refine ⟨fun s hm => ⟨_, exec_low_highRes hm, rfl, fun r => ?_, ?_⟩, fun s => exec_low_lowRes,
    fun s hm => ⟨_, exec_high_lowRes hm, rfl, fun r => ?_, ?_⟩, fun s => exec_high_highRes⟩
  · exact clearBuffer_getElem s.lo r.val r.isLt
  · exact (s.setMode_frame .lowRes).trans ((s.setMode .lowRes).setLo_frame _)
  · exact clearBuffer_getElem s.hi r.val r.isLt
  · exact (s.setMode_frame .highRes).trans ((s.setMode .highRes).setHi_frame _)

end Sys2Proof.Proofs
end

section
/-! The rules of a push (spec/10_state.md R19, spec/42_control_transfer.md R101): the entry it stores, the entries it
keeps, where its pointer ends and what it leaves alone. -/

namespace Sys2Proof.Machine

variable (s : State) (w : Word)

theorem State.push_stack_at_sp : (s.push w).stack[s.sp] = w := by
  simp

theorem State.push_stack_of_ne {k : Reg} (hk : k ≠ s.sp) : (s.push w).stack[k] = s.stack[k] := by
  have hval : s.sp.val ≠ k.val := Fin.val_ne_of_ne hk.symm
  simp [Vector.getElem_set_ne, hval]

/-- R19: the pointer moves on modulo 16. -/
theorem State.push_sp_val : (s.push w).sp.val = (s.sp.val + 1) % 16 :=
  Fin.val_add s.sp 1

theorem State.push_frame : SameExcept [.stack] s (s.push w) := by
  intro p hp
  cases p with
  | stack => exact absurd (List.mem_singleton_self _) hp
  | _ => simp [SamePart, State.memRead]

/-- R101's two writes, in either order: they touch different parts. -/
theorem State.push_setPc_frame (target : Word) : SameExcept [.pc, .stack] s ((s.push w).setPc target) :=
  (s.setPc_frame target).trans ((s.setPc target).push_frame w)

/-- An address operand keeps its value as a word. -/
theorem addrOperand_toNat (nnn : Addr) : (addrOperand nnn).toNat = nnn.toNat :=
  BitVec.toNat_setWidth_of_le (by decide)

end Sys2Proof.Machine

namespace Sys2Proof.Proofs

open Sys2Proof.Machine

/-- Settles O28: a call pushes the advanced `PC` and then loads `PC`, which touches no stack entry. -/
theorem callPushesTheReturnAddress : Obligations.CallPushesTheReturnAddress :=
  fun nnn s => ⟨_, exec_call s nnn, s.push_stack_at_sp s.pc, fun _ hk => s.push_stack_of_ne s.pc hk,
    s.push_sp_val s.pc, addrOperand_toNat nnn, s.push_setPc_frame s.pc (addrOperand nnn)⟩

end Sys2Proof.Proofs
end

section
/-! The rules of a result written together with the flag (spec/10_state.md R12 to R14; spec/43_alu.md): what `VF` and the
destination hold after it and what it leaves alone, and the statement on the logic instructions. -/

namespace Sys2Proof.Machine

variable (s : State) (x : Reg) (result flag : Byte)

theorem State.setReg_frame (b : Byte) : SameExcept [.registers] s (s.setReg x b) := by
  intro p hp
  cases p with
  | registers => exact absurd (List.mem_singleton_self _) hp
  | _ => simp [SamePart]

/-- R14: the flag is written last, so `VF` holds it for every destination. -/
theorem State.setResultAndFlag_reg_vf : (s.setResultAndFlag x result flag).reg 15 = flag := by
  rw [State.reg_setResultAndFlag, if_pos (show (15 : Reg) = flagReg from rfl)]

theorem State.setResultAndFlag_reg_destination (hx : x ≠ 15) : (s.setResultAndFlag x result flag).reg x = result := by
  rw [State.reg_setResultAndFlag, if_neg (show x ≠ flagReg from hx), if_pos rfl]

theorem State.setResultAndFlag_regs_frame : SameRegsExcept [x, 15] s (s.setResultAndFlag x result flag) := by
  intro r hr
  have hne : r ≠ x ∧ r ≠ flagReg := by simpa [flagReg] using hr
  obtain ⟨hdest, hflag⟩ := hne
  rw [State.reg_setResultAndFlag, if_neg hflag, if_neg hdest]

/-- Both writes are register writes. -/
theorem State.setResultAndFlag_frame : SameExcept [.registers] s (s.setResultAndFlag x result flag) :=
  fun p hp => (s.setReg_frame x result p hp).trans ((s.setReg x result).setReg_frame flagReg flag p hp)

/-- The effect that R113, R114 and R115 share, whatever the operation on the bits is. -/
theorem logicResult_resetsVf {s : State} {x : Reg} {result : Byte} {i : Instr}
    (hexec : exec i s = .next (s.setResultAndFlag x result logicFlag)) :
    ∃ t, exec i s = .next t ∧ t.reg 15 = 0 ∧ (x ≠ 15 → t.reg x = result) ∧
      SameRegsExcept [x, 15] s t ∧ SameExcept [.registers] s t :=
  ⟨_, hexec, s.setResultAndFlag_reg_vf x result logicFlag, s.setResultAndFlag_reg_destination x result logicFlag,
    s.setResultAndFlag_regs_frame x result logicFlag, s.setResultAndFlag_frame x result logicFlag⟩

end Sys2Proof.Machine

namespace Sys2Proof.Proofs

open Sys2Proof.Machine

/-- Settles O33: each of the three writes its own result, read from the old registers, and the flag 0 after it. -/
theorem logicInstructionsResetVf : Obligations.LogicInstructionsResetVf :=
  fun x y s => ⟨logicResult_resetsVf (exec_orReg s x y), logicResult_resetsVf (exec_andReg s x y),
    logicResult_resetsVf (exec_xorReg s x y)⟩

end Sys2Proof.Proofs
end

section
/-! The rules of a write to `I` (spec/44_index_memory.md R125, R126): what it leaves alone and the value of the sum. -/

namespace Sys2Proof.Machine

variable (s : State)

theorem State.setI_frame (w : Word) : SameExcept [.index] s (s.setI w) := by
  intro p hp
  cases p with
  | index => exact absurd (List.mem_singleton_self _) hp
  | _ => simp [SamePart, State.memRead]

/-- A byte operand keeps its value as a word. -/
theorem byteOperand_toNat (b : Byte) : (byteOperand b).toNat = b.toNat :=
  BitVec.toNat_setWidth_of_le (by decide)

/-- R126: a word plus a byte wraps modulo 65536. -/
theorem add_byteOperand_toNat (w : Word) (b : Byte) : (w + byteOperand b).toNat = (w.toNat + b.toNat) % 65536 := by
  rw [BitVec.toNat_add, byteOperand_toNat]

end Sys2Proof.Machine

namespace Sys2Proof.Proofs

open Sys2Proof.Machine

/-- Settles O38: both instructions are one write to `I`, of the address operand and of the wrapped sum. -/
theorem loadAndAddIndex : Obligations.LoadAndAddIndex :=
  ⟨fun nnn s => ⟨_, exec_ldI s nnn, addrOperand_toNat nnn, s.setI_frame (addrOperand nnn)⟩,
    fun x s => ⟨_, exec_addI s x, add_byteOperand_toNat s.i (s.reg x), s.setI_frame (s.i + byteOperand (s.reg x))⟩⟩

end Sys2Proof.Proofs
end

section
/-! The rules of a write to one register and of a write to a timer (spec/46_keys_timers.md R147 to R149), and the
statement on the three instructions that are such a write. -/

namespace Sys2Proof.Machine

variable (s : State)

theorem State.reg_setReg_same (x : Reg) (b : Byte) : (s.setReg x b).reg x = b := by
  rw [State.reg_setReg, if_pos rfl]

theorem State.setReg_regs_frame (x : Reg) (b : Byte) : SameRegsExcept [x] s (s.setReg x b) := by
  intro r hr
  rw [State.reg_setReg, if_neg (List.ne_of_not_mem_cons hr)]

theorem State.setDt_frame (b : Byte) : SameExcept [.delayTimer] s (s.setDt b) := by
  intro p hp
  cases p with
  | delayTimer => exact absurd (List.mem_singleton_self _) hp
  | _ => simp [SamePart, State.memRead]

theorem State.setSt_frame (b : Byte) : SameExcept [.soundTimer] s (s.setSt b) := by
  intro p hp
  cases p with
  | soundTimer => exact absurd (List.mem_singleton_self _) hp
  | _ => simp [SamePart, State.memRead]

end Sys2Proof.Machine

namespace Sys2Proof.Proofs

open Sys2Proof.Machine

/-- Settles O48: each of the three instructions is one write, of a register or of a timer. -/
theorem timerAccess : Obligations.TimerAccess :=
  fun x s => ⟨⟨_, exec_ldVxDt s x, s.reg_setReg_same x s.dt, s.setReg_regs_frame x s.dt, s.setReg_frame x s.dt⟩,
    ⟨_, exec_ldDtVx s x, s.setDt_dt (s.reg x), s.setDt_frame (s.reg x)⟩,
    ⟨_, exec_ldStVx s x, s.setSt_st (s.reg x), s.setSt_frame (s.reg x)⟩⟩

end Sys2Proof.Proofs
end

section
/-! The rules of a key latch, of the key-wait state and of a key event (spec/46_keys_timers.md R150 to R156,
spec/60_exceptions.md R172), and the statement on a key wait that ends. -/

namespace Sys2Proof.Machine

variable (s : State) (k : Reg)

/-! ## Latches and the key-wait state -/

theorem State.keyDown_setKey_same (down : Bool) : (s.setKey k down).keyDown k = down := by
  simp [State.keyDown]

/-- A key that is up, pressed and released, leaves no trace in the latches. -/
theorem State.setKey_press_release {s : State} {k : Reg} (hup : s.keyDown k = false) :
    (s.setKey k true).setKey k false = s := by
  have hlatch : s.key.set k false = s.key := by
    rw [← hup]
    exact Vector.set_getElem_self k.isLt
  simp [State.setKey, hlatch]

theorem State.setKey_frame (down : Bool) : SameExcept [.keys] s (s.setKey k down) := by
  intro p hp
  cases p with
  | keys => exact absurd (List.mem_singleton_self _) hp
  | _ => simp [SamePart, State.memRead]

theorem State.setKw_frame (kw : KeyWait) : SameExcept [.keyWait] s (s.setKw kw) := by
  intro p hp
  cases p with
  | keyWait => exact absurd (List.mem_singleton_self _) hp
  | _ => simp [SamePart, State.memRead]

theorem State.advancePc_frame : SameExcept [.pc] s s.advancePc := s.setPc_frame _

/-! ## Key events -/

/-- The byte a release writes is the key's number (R153). -/
theorem keyNumber_toNat : (BitVec.ofNat 8 k.val).toNat = k.val := by
  rw [BitVec.toNat_ofNat, Nat.mod_eq_of_lt]
  omega

/-- R172: a press is a write to the latch. -/
theorem keyEvent_press : keyEvent k true s = s.setKey k true := rfl

/-- R153: a release while a wait is in progress also writes the key's number and captures the release. -/
theorem keyEvent_release_waiting {s : State} {d : Reg} (hkw : s.kw = .awaitingRelease d) :
    keyEvent k false s = ((s.setKey k false).setReg d (BitVec.ofNat 8 k.val)).setKw .captured := by
  simp [keyEvent, captureRelease, hkw]

/-- A whole key stroke during a wait: the latches are back where they were, and the release is captured. -/
theorem keyEvent_stroke_waiting {s : State} {k d : Reg} (hkw : s.kw = .awaitingRelease d)
    (hup : s.keyDown k = false) :
    keyEvent k false (s.setKey k true) = (s.setReg d (BitVec.ofNat 8 k.val)).setKw .captured := by
  have hwait : (s.setKey k true).kw = .awaitingRelease d := hkw
  rw [keyEvent_release_waiting k hwait, State.setKey_press_release hup]

/-! ## The step that leaves the wait -/

/-- R151 from `Captured`: the `Fx0A` at `PC` does not rewind, and `Idle` overwrites the capture. -/
theorem step_setKw_captured {s : State} {x : Reg} (hfetch : s.fetchInstr = .ldVxK x) :
    step (s.setKw .captured) = .next (s.advancePc.setKw .idle) := by
  have hsame : (s.setKw .captured).fetchInstr = .ldVxK x := hfetch
  have hkw : (s.setKw .captured).advancePc.kw = .captured := rfl
  rw [step_eq_exec_of_fetchInstr hsame, exec_ldVxK_captured x hkw]
  rfl

end Sys2Proof.Machine

namespace Sys2Proof.Proofs

open Sys2Proof.Machine

/-- Settles O51: the stroke leaves the register write and `Captured`, and the step the advanced `PC` and `Idle`. -/
theorem keyWaitEndsOnARelease : Obligations.KeyWaitEndsOnARelease := by
  intro s d k hkw hfetch hup
  let r := s.setReg d (BitVec.ofNat 8 k.val)
  have hstroke : keyEvent k false (s.setKey k true) = r.setKw .captured := keyEvent_stroke_waiting hkw hup
  have hnumber : (r.reg d).toNat = k.val := by rw [State.reg_setReg_same, keyNumber_toNat]
  have hfetchR : r.fetchInstr = .ldVxK d := hfetch
  have hframe : SameExcept [.registers, .pc, .keyWait] s (r.advancePc.setKw .idle) :=
    ((s.setReg_frame d _).trans r.advancePc_frame).trans (r.advancePc.setKw_frame .idle)
  exact ⟨s.setKey k true, r.setKw .captured, r.advancePc.setKw .idle, congrArg Host.Outcome.next (keyEvent_press s k),
    s.keyDown_setKey_same k true, s.setKey_frame k true, congrArg Host.Outcome.next hstroke, hup, hnumber,
    rfl, step_setKw_captured hfetchR, hnumber, rfl, r.advancePc_pc_toNat, s.setReg_regs_frame d _, hframe⟩

end Sys2Proof.Proofs
end

section
/-! The rules of the tick event (spec/60_exceptions.md R171), and the statement on one tick. -/

namespace Sys2Proof.Machine

/-- R171: the count stops at zero, as subtraction of natural numbers does. -/
theorem countDown_toNat (t : Byte) : (countDown t).toNat = t.toNat - 1 := by
  unfold countDown
  split
  case isTrue hzero => rw [hzero]; rfl
  case isFalse hpos =>
    have hone : (1 : Byte) ≤ t := by bv_omega
    exact BitVec.toNat_sub_of_le hone

variable (s : State)

theorem tick_dt_toNat : (tick s).dt.toNat = s.dt.toNat - 1 := countDown_toNat s.dt

theorem tick_st_toNat : (tick s).st.toNat = s.st.toNat - 1 := countDown_toNat s.st

/-- "No other side effects" (R171): a tick is a write to each timer. -/
theorem tick_frame : SameExcept [.delayTimer, .soundTimer] s (tick s) :=
  (s.setDt_frame (countDown s.dt)).trans ((s.setDt (countDown s.dt)).setSt_frame (countDown s.st))

end Sys2Proof.Machine

namespace Sys2Proof.Proofs

open Sys2Proof.Machine

/-- Settles O53: a tick is one count down of each timer, and its frame is that of the two timer writes. -/
theorem tickCountsBothTimersDown : Obligations.TickCountsBothTimersDown :=
  fun s => ⟨tick s, rfl, tick_dt_toNat s, tick_st_toNat s, tick_frame s⟩

end Sys2Proof.Proofs
end

section
/-! The rule of a load that fails (spec/60_exceptions.md R196), and the statement on it. -/

namespace Sys2Proof.Machine

variable {rom : List Byte} (s : State)

/-- R196: a program longer than the space from `200` to the end of memory is reported as a failure, before anything of the
machine is reset or stored. -/
theorem load_of_maxProgram_lt (hlong : Config.maxProgram < rom.length) : load rom s = (false, s) :=
  if_neg (Nat.not_le_of_gt hlong)

theorem handle_load : handle (.load rom) s = .next (load rom s).2 := rfl

end Sys2Proof.Machine

namespace Sys2Proof.Proofs

open Sys2Proof.Machine

/-- Settles O58: the load reports failure with the state it was given, and the event passes that state on. -/
theorem oversizeLoadChangesNothing : Obligations.OversizeLoadChangesNothing := by
  intro rom s hlong
  have hfails : load rom s = (false, s) := load_of_maxProgram_lt s hlong
  have hevent : handle (.load rom) s = .next s := by rw [handle_load, hfails]
  exact ⟨hfails, hevent⟩

end Sys2Proof.Proofs
end

section
/-! The decoder and the encoder as inverses of each other (spec/30_encoding.md R64 to R72), and the statements on them.
The decoder is run on a word put together from its fields, and on the fixed digits of each row of the opcode map. -/

namespace Sys2Proof

variable {op : Word} {row : OpcodeRow}

/-! ## A word put together again from its fields -/

section Fields

variable {h n : Nibble} {kk : Byte}

theorem wordA_of_fieldH (hh : fieldH op = h) : wordA h (fieldNnn op) = op := by
  rw [← hh, ← eq_wordA]

theorem wordXk_of_fieldH (hh : fieldH op = h) : wordXk h (fieldX op) (fieldKk op) = op := by
  rw [← hh, ← eq_wordXk]

theorem wordXk_of_fieldKk (hh : fieldH op = h) (hkk : fieldKk op = kk) : wordXk h (fieldX op) kk = op := by
  rw [← hkk, wordXk_of_fieldH hh]

theorem wordXyn_of_fieldN (hh : fieldH op = h) (hn : fieldN op = n) :
    wordXyn h (fieldX op) (fieldY op) n = op := by
  rw [← hh, ← hn, wordXyn, ← eq_wordOfDigits]

end Fields

/-! ## Encoding what was decoded -/

theorem encode_decodeFamily0 (hh : fieldH op = 0x0) : encode (decodeFamily0 op) = op := by
  unfold decodeFamily0
  split
  case isTrue => rfl
  case isFalse hx =>
    have hx0 : fieldX op = 0 := not_not.1 hx
    have fixed : ∀ {kk}, fieldKk op = kk → wordXk 0x0 0 kk = op := fun hkk => hx0 ▸ wordXk_of_fieldKk hh hkk
    split
    case isTrue hy =>
      calc
        encode (.scd (fieldN op)) = wordXyn 0x0 0 0xC (fieldN op) := rfl
        _ = wordXyn 0x0 (fieldX op) (fieldY op) (fieldN op) := by rw [hx0, hy]
        _ = op := wordXyn_of_fieldN hh rfl
    case isFalse =>
      split
      case h_7 => rfl
      all_goals exact fixed ‹_›

theorem encode_decodeFamily8 (hh : fieldH op = 0x8) : encode (decodeFamily8 op) = op := by
  unfold decodeFamily8
  split
  case h_10 => rfl
  all_goals exact wordXyn_of_fieldN hh ‹_›

theorem encode_decodeFamilyE (hh : fieldH op = 0xE) : encode (decodeFamilyE op) = op := by
  unfold decodeFamilyE
  split
  case h_3 => rfl
  all_goals exact wordXk_of_fieldKk hh ‹_›

theorem encode_decodeFamilyF (hh : fieldH op = 0xF) : encode (decodeFamilyF op) = op := by
  unfold decodeFamilyF
  split
  case h_11 => rfl
  all_goals exact wordXk_of_fieldKk hh ‹_›

/-- Decoding loses no bit of the word: every word is the encoding of its instruction. -/
theorem encode_decode (op : Word) : encode (decode op) = op := by
  unfold decode
  split <;> rename_i hh
  · exact encode_decodeFamily0 hh
  · exact wordA_of_fieldH hh
  · exact wordA_of_fieldH hh
  · exact wordXk_of_fieldH hh
  · exact wordXk_of_fieldH hh
  · split
    · exact wordXyn_of_fieldN hh ‹_›
    · rfl
  · exact wordXk_of_fieldH hh
  · exact wordXk_of_fieldH hh
  · exact encode_decodeFamily8 hh
  · split
    · exact wordXyn_of_fieldN hh ‹_›
    · rfl
  · exact wordA_of_fieldH hh
  · exact wordA_of_fieldH hh
  · exact wordXk_of_fieldH hh
  · split
    · exact wordXyn_of_fieldN hh ‹_›
    · exact wordXyn_of_fieldN hh rfl
  · exact encode_decodeFamilyE hh
  · exact encode_decodeFamilyF hh
  · rfl

/-! ## The row of the map a word is covered by -/

theorem fitsRow (i : Instr) : Laws.FitsRow.Statement i := by
  cases i with
  | scd n => exact Laws.FitsRow.scd n
  | cls => exact Laws.FitsRow.cls
  | ret => exact Laws.FitsRow.ret
  | scr => exact Laws.FitsRow.scr
  | scl => exact Laws.FitsRow.scl
  | low => exact Laws.FitsRow.low
  | high => exact Laws.FitsRow.high
  | jp nnn => exact Laws.FitsRow.jp nnn
  | call nnn => exact Laws.FitsRow.call nnn
  | seImm x kk => exact Laws.FitsRow.seImm x kk
  | sneImm x kk => exact Laws.FitsRow.sneImm x kk
  | seReg x y => exact Laws.FitsRow.seReg x y
  | ldImm x kk => exact Laws.FitsRow.ldImm x kk
  | addImm x kk => exact Laws.FitsRow.addImm x kk
  | ldReg x y => exact Laws.FitsRow.ldReg x y
  | orReg x y => exact Laws.FitsRow.orReg x y
  | andReg x y => exact Laws.FitsRow.andReg x y
  | xorReg x y => exact Laws.FitsRow.xorReg x y
  | addReg x y => exact Laws.FitsRow.addReg x y
  | sub x y => exact Laws.FitsRow.sub x y
  | shr x y => exact Laws.FitsRow.shr x y
  | subn x y => exact Laws.FitsRow.subn x y
  | shl x y => exact Laws.FitsRow.shl x y
  | sneReg x y => exact Laws.FitsRow.sneReg x y
  | ldI nnn => exact Laws.FitsRow.ldI nnn
  | jpV0 nnn => exact Laws.FitsRow.jpV0 nnn
  | rnd x kk => exact Laws.FitsRow.rnd x kk
  | drwSuper x y => exact Laws.FitsRow.drwSuper x y
  | drw x y n => exact Laws.FitsRow.drw x y n
  | skp x => exact Laws.FitsRow.skp x
  | sknp x => exact Laws.FitsRow.sknp x
  | ldVxDt x => exact Laws.FitsRow.ldVxDt x
  | ldVxK x => exact Laws.FitsRow.ldVxK x
  | ldDtVx x => exact Laws.FitsRow.ldDtVx x
  | ldStVx x => exact Laws.FitsRow.ldStVx x
  | addI x => exact Laws.FitsRow.addI x
  | ldF x => exact Laws.FitsRow.ldF x
  | ldHf x => exact Laws.FitsRow.ldHf x
  | ldB x => exact Laws.FitsRow.ldB x
  | storeRegs x => exact Laws.FitsRow.storeRegs x
  | loadRegs x => exact Laws.FitsRow.loadRegs x
  | unknown op => exact Laws.FitsRow.unknown op

/-- The row of the decoded instruction covers the word (R65). -/
theorem exists_row_of_decode (hknown : (decode op).rowNumber ≠ 42) :
    ∃ row ∈ opcodeRows, row.number = (decode op).rowNumber ∧ row.covers op = true := by
  obtain ⟨row, hrow, hnumber, hcovers⟩ := fitsRow (decode op) hknown
  rw [encode_decode] at hcovers
  exact ⟨row, hrow, hnumber, hcovers⟩

theorem rowNumber_eq_42_iff (i : Instr) : i.rowNumber = 42 ↔ ∃ op, i = .unknown op := by
  cases i <;> simp [Instr.rowNumber]

/-- Two rows cover one word only if their patterns agree on the digits that both fix. -/
theorem patterns_agree_of_covers {p q : OpcodeRow} (hp : p.covers op = true) (hq : q.covers op = true) :
    p.pattern &&& q.mask = q.pattern &&& p.mask := by
  rw [OpcodeRow.covers, beq_iff_eq] at hp hq
  rw [← hp, ← hq, BitVec.and_assoc, BitVec.and_assoc, BitVec.and_comm p.mask]

/-- R65: of the 41 rows only `Dxy0` and `Dxyn` agree on the digits that both fix. -/
theorem overlapping_rows : ∀ p ∈ opcodeRows, ∀ q ∈ opcodeRows, p.pattern &&& q.mask = q.pattern &&& p.mask →
    p.number < q.number → p.number = 28 ∧ q.number = 29 := by
  decide

theorem numbers_rise : opcodeRows.Pairwise (·.number < ·.number) := by decide

/-! ## Decoding what was encoded -/

/-- A word of no row is the catch-all, whose number 42 is no row's (R65, R67). -/
theorem decode_of_not_known (hop : isKnownWord op = false) : decode op = .unknown op := by
  have hnumber : (decode op).rowNumber = 42 := by
    by_contra hknown
    obtain ⟨row, hrow, -, hcovers⟩ := exists_row_of_decode hknown
    exact List.any_eq_false.1 hop row hrow hcovers
  obtain ⟨op', hdecode⟩ := (rowNumber_eq_42_iff (decode op)).1 hnumber
  have hsame : op' = op := by rw [← encode_decode op, hdecode]; rfl
  rw [hdecode, hsame]

/-- Encoding drops no bit of an operand: every well-formed instruction is read back (R72). -/
theorem decode_encode (i : Instr) (hi : i.WellFormed) : decode (encode i) = i := by
  cases i with
  | scd n =>
    have h0 : regOfNibble 0#4 = 0 := rfl
    have hC : regOfNibble 12#4 = 0xC := rfl
    simp [encode, decode, decodeFamily0, h0, hC]
  | cls | ret | scr | scl | low | high => rfl
  | jp nnn | call nnn | ldI nnn | jpV0 nnn => simp [encode, decode]
  | seImm x kk | sneImm x kk | ldImm x kk | addImm x kk | rnd x kk => simp [encode, decode]
  | seReg x y | sneReg x y | drwSuper x y => simp [encode, decode, wordXyn]
  | ldReg x y | orReg x y | andReg x y | xorReg x y | addReg x y | sub x y | shr x y | subn x y | shl x y =>
    simp [encode, decode, decodeFamily8, wordXyn]
  | drw x y n =>
    have hn : n ≠ 0#4 := bne_iff_ne.1 hi
    simp [encode, decode, wordXyn, hn]
  | skp x | sknp x => simp [encode, decode, decodeFamilyE]
  | ldVxDt x | ldVxK x | ldDtVx x | ldStVx x | addI x | ldF x | ldHf x | ldB x | storeRegs x | loadRegs x =>
    simp [encode, decode, decodeFamilyF]
  | unknown op => exact decode_of_not_known (Bool.not_eq_true' (isKnownWord op) |>.mp hi)

/-! ## Decoding a word of a row -/

/-! The digits that a row of each mask fixes are those of its pattern. -/

theorem fieldH_of_covers (hm : row.mask = 0xF000) (hc : row.covers op = true) : fieldH op = fieldH row.pattern := by
  obtain ⟨hh, -⟩ := (covers_iff_digits row op).1 hc
  rwa [hm, show fieldH 0xF000 = BitVec.allOnes 4 by decide, BitVec.and_allOnes] at hh

theorem fieldH_fieldN_of_covers (hm : row.mask = 0xF00F) (hc : row.covers op = true) :
    fieldH op = fieldH row.pattern ∧ fieldN op = fieldN row.pattern := by
  obtain ⟨hh, -, -, hn⟩ := (covers_iff_digits row op).1 hc
  rw [hm, show fieldH 0xF00F = BitVec.allOnes 4 by decide, BitVec.and_allOnes] at hh
  rw [hm, show fieldN 0xF00F = BitVec.allOnes 4 by decide, BitVec.and_allOnes] at hn
  exact ⟨hh, hn⟩

theorem fieldH_fieldKk_of_covers (hm : row.mask = 0xF0FF) (hc : row.covers op = true) :
    fieldH op = fieldH row.pattern ∧ fieldKk op = fieldKk row.pattern := by
  obtain ⟨hh, -, hy, hn⟩ := (covers_iff_digits row op).1 hc
  rw [hm, show fieldH 0xF0FF = BitVec.allOnes 4 by decide, BitVec.and_allOnes] at hh
  rw [hm, show nibbleOfReg (fieldY 0xF0FF) = BitVec.allOnes 4 by decide, BitVec.and_allOnes] at hy
  rw [hm, show fieldN 0xF0FF = BitVec.allOnes 4 by decide, BitVec.and_allOnes] at hn
  exact ⟨hh, by rw [fieldKk_eq_append, fieldKk_eq_append, hy, hn]⟩

theorem eq_pattern_of_covers (hm : row.mask = 0xFFFF) (hc : row.covers op = true) : op = row.pattern := by
  rw [OpcodeRow.covers, beq_iff_eq, hm] at hc
  exact (BitVec.and_allOnes (x := op)).symm.trans hc

/-- The row of `00Cn` leaves the digit `n` free and fixes the others. -/
theorem eq_encode_scd_of_covers (hc : (OpcodeRow.mk 1 0xFFF0 0x00C0).covers op = true) :
    op = encode (.scd (fieldN op)) := by
  obtain ⟨hh, hx, hy, -⟩ := (covers_iff_digits _ op).1 hc
  rw [show fieldH 0xFFF0 = BitVec.allOnes 4 by decide, BitVec.and_allOnes] at hh
  rw [show nibbleOfReg (fieldX 0xFFF0) = BitVec.allOnes 4 by decide, BitVec.and_allOnes] at hx
  rw [show nibbleOfReg (fieldY 0xFFF0) = BitVec.allOnes 4 by decide, BitVec.and_allOnes] at hy
  conv_lhs => rw [eq_wordOfDigits op, hh, hx, hy]
  rfl

/-- Family 0 fixes the whole word but for the row count of `00Cn`. -/
theorem rowNumber_decode_ne_42_family0 (hrow : row ∈ rowsFamily0) (hc : row.covers op = true) :
    (decode op).rowNumber ≠ 42 := by
  simp only [rowsFamily0, List.mem_cons, List.not_mem_nil, or_false] at hrow
  rcases hrow with rfl | rfl | rfl | rfl | rfl | rfl | rfl
  case inl =>
    rw [eq_encode_scd_of_covers hc, decode_encode (.scd (fieldN op)) rfl]
    exact Nat.ne_of_beq_eq_false rfl
  all_goals
    rw [eq_pattern_of_covers rfl hc]
    decide

theorem rowNumber_decode_ne_42_families1to7 (hrow : row ∈ rowsFamilies1to7) (hc : row.covers op = true) :
    (decode op).rowNumber ≠ 42 := by
  simp only [rowsFamilies1to7, List.mem_cons, List.not_mem_nil, or_false] at hrow
  unfold decode
  rcases hrow with rfl | rfl | rfl | rfl | rfl | rfl | rfl
  case inr.inr.inr.inr.inl =>
    obtain ⟨hh, hn⟩ := fieldH_fieldN_of_covers rfl hc
    rw [hh, hn]
    exact Nat.ne_of_beq_eq_false rfl
  all_goals
    rw [fieldH_of_covers rfl hc]
    exact Nat.ne_of_beq_eq_false rfl

theorem rowNumber_decode_ne_42_family8 (hrow : row ∈ rowsFamily8) (hc : row.covers op = true) :
    (decode op).rowNumber ≠ 42 := by
  simp only [rowsFamily8, List.mem_cons, List.not_mem_nil, or_false] at hrow
  unfold decode decodeFamily8
  rcases hrow with rfl | rfl | rfl | rfl | rfl | rfl | rfl | rfl | rfl
  all_goals
    obtain ⟨hh, hn⟩ := fieldH_fieldN_of_covers rfl hc
    rw [hh, hn]
    exact Nat.ne_of_beq_eq_false rfl

theorem rowNumber_decode_ne_42_families9toE (hrow : row ∈ rowsFamilies9toE) (hc : row.covers op = true) :
    (decode op).rowNumber ≠ 42 := by
  simp only [rowsFamilies9toE, List.mem_cons, List.not_mem_nil, or_false] at hrow
  unfold decode decodeFamilyE
  rcases hrow with rfl | rfl | rfl | rfl | rfl | rfl | rfl | rfl
  · obtain ⟨hh, hn⟩ := fieldH_fieldN_of_covers rfl hc
    rw [hh, hn]
    exact Nat.ne_of_beq_eq_false rfl
  · rw [fieldH_of_covers rfl hc]
    exact Nat.ne_of_beq_eq_false rfl
  · rw [fieldH_of_covers rfl hc]
    exact Nat.ne_of_beq_eq_false rfl
  · rw [fieldH_of_covers rfl hc]
    exact Nat.ne_of_beq_eq_false rfl
  · obtain ⟨hh, hn⟩ := fieldH_fieldN_of_covers rfl hc
    rw [hh, hn]
    exact Nat.ne_of_beq_eq_false rfl
  · rw [fieldH_of_covers rfl hc]
    by_cases hn : fieldN op = 0
    · rw [hn]
      exact Nat.ne_of_beq_eq_false rfl
    · change (if fieldN op = 0 then _ else _ : Instr).rowNumber ≠ 42
      rw [if_neg hn]
      exact Nat.ne_of_beq_eq_false rfl
  · obtain ⟨hh, hkk⟩ := fieldH_fieldKk_of_covers rfl hc
    rw [hh, hkk]
    exact Nat.ne_of_beq_eq_false rfl
  · obtain ⟨hh, hkk⟩ := fieldH_fieldKk_of_covers rfl hc
    rw [hh, hkk]
    exact Nat.ne_of_beq_eq_false rfl

theorem rowNumber_decode_ne_42_familyF (hrow : row ∈ rowsFamilyF) (hc : row.covers op = true) :
    (decode op).rowNumber ≠ 42 := by
  simp only [rowsFamilyF, List.mem_cons, List.not_mem_nil, or_false] at hrow
  unfold decode decodeFamilyF
  rcases hrow with rfl | rfl | rfl | rfl | rfl | rfl | rfl | rfl | rfl | rfl
  all_goals
    obtain ⟨hh, hkk⟩ := fieldH_fieldKk_of_covers rfl hc
    rw [hh, hkk]
    exact Nat.ne_of_beq_eq_false rfl

/-- Every word that some row covers decodes to one of the 41 instructions (R64). -/
theorem rowNumber_decode_ne_42 (hrow : row ∈ opcodeRows) (hc : row.covers op = true) : (decode op).rowNumber ≠ 42 := by
  simp only [opcodeRows, List.mem_append, or_assoc] at hrow
  rcases hrow with h0 | h1 | h8 | h9 | hF
  · exact rowNumber_decode_ne_42_family0 h0 hc
  · exact rowNumber_decode_ne_42_families1to7 h1 hc
  · exact rowNumber_decode_ne_42_family8 h8 hc
  · exact rowNumber_decode_ne_42_families9toE h9 hc
  · exact rowNumber_decode_ne_42_familyF hF hc

theorem isKnownWord_iff : isKnownWord op = true ↔ (decode op).rowNumber ≠ 42 := by
  rw [isKnownWord, List.any_eq_true]
  constructor
  · rintro ⟨row, hrow, hc⟩
    exact rowNumber_decode_ne_42 hrow hc
  · intro hknown
    obtain ⟨row, hrow, -, hc⟩ := exists_row_of_decode hknown
    exact ⟨row, hrow, hc⟩

/-- The two conditions of well-formedness: the decoder never answers `Dxyn` with `n = 0`, and the catch-all only for a
word of no row. -/
theorem decode_wellFormed (op : Word) : (decode op).WellFormed := by
  cases hi : decode op with
  | drw x y n =>
    have hop : op = encode (.drw x y n) := by rw [← hi, encode_decode]
    have hn : n ≠ 0 := by
      rintro rfl
      have hsuper : decode (encode (.drw x y 0)) = .drwSuper x y := decode_encode (.drwSuper x y) rfl
      rw [← hop, hi] at hsuper
      cases hsuper
    exact bne_iff_ne.2 hn
  | unknown op' =>
    have hop : op' = op := by rw [← encode_decode op, hi]; rfl
    have hknown : ¬ isKnownWord op = true := by
      rw [isKnownWord_iff, hi]
      exact not_not.2 rfl
    rw [hop]
    exact (Bool.not_eq_true' _).mpr (Bool.eq_false_of_not_eq_true hknown)
  | _ => rfl

/-- The row numbered 28 decodes to `Dxy0`: it fixes the digit `n` that `Dxyn` leaves free. -/
theorem rowNumber_decode_row28 (hrow : row ∈ opcodeRows) (hnumber : row.number = 28) (hc : row.covers op = true) :
    (decode op).rowNumber = 28 := by
  have hfixed : ∀ row ∈ opcodeRows, row.number = 28 → row = ⟨28, 0xF00F, 0xD000⟩ := by decide
  obtain rfl := hfixed row hrow hnumber
  obtain ⟨hh, hn⟩ := fieldH_fieldN_of_covers rfl hc
  unfold decode
  rw [hh, hn]
  rfl

/-- Of the rows that cover a word the first has the smallest number. -/
theorem find_number_le {first : OpcodeRow} (hfirst : opcodeRows.find? (·.covers op) = some first)
    (hrow : row ∈ opcodeRows) (hc : row.covers op = true) : first.number ≤ row.number := by
  obtain ⟨-, before, after, hrows, hbefore⟩ := List.find?_eq_some_iff_append.1 hfirst
  have hrise := numbers_rise
  rw [hrows] at hrow hrise
  obtain ⟨-, hafter, -⟩ := List.pairwise_append.1 hrise
  rcases List.mem_append.1 hrow with hb | hrest
  · exact absurd hc (by simpa using hbefore row hb)
  · rcases List.mem_cons.1 hrest with rfl | ha
    · exact le_rfl
    · exact (List.rel_of_pairwise_cons hafter ha).le

/-- R65: the first row that covers a word is the row of its instruction. -/
theorem rowNumber_decode (op : Word) : (decode op).rowNumber = rowOfWord op := by
  unfold rowOfWord
  cases hfirst : opcodeRows.find? (·.covers op) with
  | none =>
    by_contra hknown
    obtain ⟨row, hrow, -, hc⟩ := exists_row_of_decode hknown
    exact List.find?_eq_none.1 hfirst row hrow hc
  | some first =>
    have hmem : first ∈ opcodeRows := List.mem_of_find?_eq_some hfirst
    have hcfirst : first.covers op = true := List.find?_some (p := fun row : OpcodeRow => row.covers op) hfirst
    obtain ⟨row, hrow, hnumber, hc⟩ := exists_row_of_decode (rowNumber_decode_ne_42 hmem hcfirst)
    rcases (find_number_le hfirst hrow hc).eq_or_lt with heq | hlt
    · exact (heq.trans hnumber).symm
    · obtain ⟨h28, -⟩ := overlapping_rows first hmem row hrow (patterns_agree_of_covers hcfirst hc) hlt
      exact (rowNumber_decode_row28 hmem h28 hcfirst).trans h28.symm

end Sys2Proof

namespace Sys2Proof.Proofs

/-- Settles O1: the two bytes are the word, and the decoder reads each pattern back. -/
theorem decodingAnEncodedInstructionGivesItBack : Obligations.DecodingAnEncodedInstructionGivesItBack := by
  intro i hi
  rw [decodeBytes, wordOfBytes_highByte_lowByte, decode_encode i hi]

/-- Settles O2, from the two round trips and the row of every word. -/
theorem everyWordIsTheEncodingOfItsInstruction : Obligations.EveryWordIsTheEncodingOfItsInstruction :=
  fun op => ⟨decode_wellFormed op, encode_decode op⟩

/-- Settles O3: rows that cover one word agree on the digits both fix, which only two rows do. -/
theorem decoderFollowsTheOpcodeMap : Obligations.DecoderFollowsTheOpcodeMap :=
  ⟨rowNumber_decode, fun _ p hp q hq hcp hcq hlt =>
    overlapping_rows p hp q hq (patterns_agree_of_covers hcp hcq) hlt⟩

/-- Settles O4: each word is the encoding of the instruction it is said to stand for. -/
theorem sampleWordsDecodeAsTheMapSays : Obligations.SampleWordsDecodeAsTheMapSays := by
  unfold Obligations.SampleWordsDecodeAsTheMapSays
  decide

end Sys2Proof.Proofs
end

section
/-! What every instruction and every step leaves alone, where it leaves `PC`, and that it answers a next state
(spec/60_exceptions.md section 1, spec/42_control_transfer.md R108, spec/10_state.md R13), and the statements on it. -/

namespace Sys2Proof.Machine

/-! ## Frames -/

theorem SameExcept.refl (ps : List Part) (s : State) : SameExcept ps s s := by
  intro p _
  cases p with
  | memory | registers => exact fun _ => rfl
  | stack => exact ⟨rfl, rfl⟩
  | _ => exact Eq.refl _

/-- A frame still holds when more parts are listed. -/
theorem SameExcept.mono {ps qs : List Part} {s t : State} (h : SameExcept ps s t) (hsub : ps ⊆ qs) :
    SameExcept qs s t :=
  fun p hp => h p fun hmem => hp (hsub hmem)

section Updates

variable (s : State)

theorem State.storeBytes_frame (a : Nat) (bs : List Byte) : SameExcept [.memory] s (s.storeBytes a bs) :=
  sameExcept_memory_withMem s (s.mem.writeBytes a bs)

theorem State.emitDiag_frame (op : Word) : SameExcept [.diag] s (s.emitDiag op) := by
  intro p hp
  cases p with
  | diag => exact absurd (List.mem_singleton_self _) hp
  | _ => simp [SamePart, State.memRead]

theorem State.countDraw_frame : SameExcept [.draws] s s.countDraw := by
  intro p hp
  cases p with
  | draws => exact absurd (List.mem_singleton_self _) hp
  | _ => simp [SamePart, State.memRead]

/-- The frame of every update of the registers alone. -/
theorem sameExcept_registers_withV (v : Vector Byte 16) : SameExcept [.registers] s { s with v := v } := by
  intro p hp
  cases p with
  | registers => exact absurd (List.mem_singleton_self _) hp
  | memory => exact fun _ => rfl
  | stack => exact ⟨rfl, rfl⟩
  | index | pc | delayTimer | soundTimer | keys | keyWait | mode | lowBuffer | highBuffer | draws | diag => rfl

theorem State.setRegsUpTo_frame (x : Reg) (f : Nat → Byte) : SameExcept [.registers] s (s.setRegsUpTo x f) :=
  sameExcept_registers_withV s _

/-- R122's two writes touch different parts. -/
theorem State.maskRandom_frame (rnd : Byte) (x : Reg) (kk : Byte) :
    SameExcept [.registers, .draws] s (s.maskRandom rnd x kk) :=
  (s.setReg_frame x (rnd &&& kk)).trans (s.setReg x (rnd &&& kk)).countDraw_frame

theorem State.skipIf_frame (taken : Bool) : SameExcept [.pc] s (s.skipIf taken) := s.setPc_frame _

theorem State.rewindPc_frame : SameExcept [.pc] s s.rewindPc := s.setPc_frame _

/-- The flag of a draw and its buffer are different parts, so the order of the two writes does not matter. -/
theorem State.draw_frame {sw : Nat} (x y : Reg) (rows : Nat) (row : Nat → BitVec sw) :
    SameExcept [.registers, s.activePart] s (s.draw x y rows row) := by
  cases hm : s.mode with
  | lowRes =>
    rw [State.activePart, hm, State.draw_low hm]
    exact (s.setReg_frame flagReg _).trans ((s.setReg flagReg _).setLo_frame _)
  | highRes =>
    rw [State.activePart, hm, State.draw_high hm]
    exact (s.setReg_frame flagReg _).trans ((s.setReg flagReg _).setHi_frame _)

theorem State.draw_regs_frame {sw : Nat} (x y : Reg) (rows : Nat) (row : Nat → BitVec sw) :
    SameRegsExcept [flagReg] s (s.draw x y rows row) := by
  cases hm : s.mode with
  | lowRes =>
    rw [State.draw_low hm]
    exact (s.setLo _).setReg_regs_frame flagReg _
  | highRes =>
    rw [State.draw_high hm]
    exact (s.setHi _).setReg_regs_frame flagReg _

theorem State.setRegsUpTo_regs_frame (x : Reg) (f : Nat → Byte) :
    SameRegsExcept ((List.finRange 16).filter fun r => r ≤ x) s (s.setRegsUpTo x f) := by
  intro r hr
  have habove : ¬ r ≤ x := by simpa using hr
  rw [State.reg_setRegsUpTo, if_neg habove]

end Updates

/-! ## The key-wait instruction -/

section KeyWait

variable {s : State} (x : Reg)

theorem ldVxK_idle_frame (hkw : s.kw = .idle) : ∃ t, exec (.ldVxK x) s = .next t ∧ t.kw = .awaitingRelease x ∧
    t.pc = s.pc - 2 ∧ SameExcept [.pc, .keyWait] s t :=
  ⟨_, exec_ldVxK_idle x hkw, rfl, rfl, s.rewindPc_frame.trans (s.rewindPc.setKw_frame (.awaitingRelease x))⟩

theorem ldVxK_waiting_frame {d : Reg} (hkw : s.kw = .awaitingRelease d) :
    ∃ t, exec (.ldVxK x) s = .next t ∧ t.pc = s.pc - 2 ∧ SameExcept [.pc] s t :=
  ⟨_, exec_ldVxK_waiting x hkw, rfl, s.rewindPc_frame⟩

theorem ldVxK_captured_frame (hkw : s.kw = .captured) :
    ∃ t, exec (.ldVxK x) s = .next t ∧ t.kw = .idle ∧ SameExcept [.keyWait] s t :=
  ⟨_, exec_ldVxK_captured x hkw, rfl, s.setKw_frame .idle⟩

end KeyWait

/-! ## Every instruction -/

/-- Every instruction answers a next state and writes only the parts listed for it (R160). -/
theorem exec_next_frame (i : Instr) (s : State) : ∃ t, exec i s = .next t ∧ SameExcept (s.mayWrite i) s t := by
  cases i with
  | scd n => exact ⟨_, exec_scd s n, s.updateActive_frame _⟩
  | cls => exact ⟨_, exec_cls s, s.updateActive_frame _⟩
  | ret => exact ⟨_, exec_ret s, s.dropTop_setPc_frame s.top⟩
  | scr => exact ⟨_, exec_scr s, s.updateActive_frame _⟩
  | scl => exact ⟨_, exec_scl s, s.updateActive_frame _⟩
  | low =>
    cases hm : s.mode with
    | lowRes => exact ⟨s, exec_low_lowRes hm, SameExcept.refl _ s⟩
    | highRes => exact ⟨_, exec_low_highRes hm, (s.setMode_frame .lowRes).trans ((s.setMode .lowRes).setLo_frame _)⟩
  | high =>
    cases hm : s.mode with
    | lowRes => exact ⟨_, exec_high_lowRes hm, (s.setMode_frame .highRes).trans ((s.setMode .highRes).setHi_frame _)⟩
    | highRes => exact ⟨s, exec_high_highRes hm, SameExcept.refl _ s⟩
  | jp nnn => exact ⟨_, exec_jp s nnn, s.setPc_frame _⟩
  | call nnn => exact ⟨_, exec_call s nnn, s.push_setPc_frame s.pc _⟩
  | seImm x kk => exact ⟨_, exec_seImm s x kk, s.skipIf_frame _⟩
  | sneImm x kk => exact ⟨_, exec_sneImm s x kk, s.skipIf_frame _⟩
  | seReg x y => exact ⟨_, exec_seReg s x y, s.skipIf_frame _⟩
  | ldImm x kk => exact ⟨_, exec_ldImm s x kk, s.setReg_frame x _⟩
  | addImm x kk => exact ⟨_, exec_addImm s x kk, s.setReg_frame x _⟩
  | ldReg x y => exact ⟨_, exec_ldReg s x y, s.setReg_frame x _⟩
  | orReg x y => exact ⟨_, exec_orReg s x y, s.setResultAndFlag_frame x _ _⟩
  | andReg x y => exact ⟨_, exec_andReg s x y, s.setResultAndFlag_frame x _ _⟩
  | xorReg x y => exact ⟨_, exec_xorReg s x y, s.setResultAndFlag_frame x _ _⟩
  | addReg x y => exact ⟨_, exec_addReg s x y, s.setResultAndFlag_frame x _ _⟩
  | sub x y => exact ⟨_, exec_sub s x y, s.setResultAndFlag_frame x _ _⟩
  | shr x y => exact ⟨_, exec_shr s x y, s.setResultAndFlag_frame x _ _⟩
  | subn x y => exact ⟨_, exec_subn s x y, s.setResultAndFlag_frame x _ _⟩
  | shl x y => exact ⟨_, exec_shl s x y, s.setResultAndFlag_frame x _ _⟩
  | sneReg x y => exact ⟨_, exec_sneReg s x y, s.skipIf_frame _⟩
  | ldI nnn => exact ⟨_, exec_ldI s nnn, s.setI_frame _⟩
  | jpV0 nnn => exact ⟨_, exec_jpV0 s nnn, s.setPc_frame _⟩
  | rnd x kk => exact ⟨_, exec_rnd s x kk, s.maskRandom_frame _ x kk⟩
  | drwSuper x y => exact ⟨_, exec_drwSuper s x y, s.draw_frame x y _ _⟩
  | drw x y n => exact ⟨_, exec_drw s x y n, s.draw_frame x y _ _⟩
  | skp x => exact ⟨_, exec_skp s x, s.skipIf_frame _⟩
  | sknp x => exact ⟨_, exec_sknp s x, s.skipIf_frame _⟩
  | ldVxDt x => exact ⟨_, exec_ldVxDt s x, s.setReg_frame x _⟩
  | ldVxK x =>
    cases hkw : s.kw with
    | idle =>
      obtain ⟨t, hexec, -, -, hframe⟩ := ldVxK_idle_frame x hkw
      exact ⟨t, hexec, hframe⟩
    | awaitingRelease d =>
      obtain ⟨t, hexec, -, hframe⟩ := ldVxK_waiting_frame x hkw
      exact ⟨t, hexec, hframe.mono (by simp [State.mayWrite])⟩
    | captured =>
      obtain ⟨t, hexec, -, hframe⟩ := ldVxK_captured_frame x hkw
      exact ⟨t, hexec, hframe.mono (by simp [State.mayWrite])⟩
  | ldDtVx x => exact ⟨_, exec_ldDtVx s x, s.setDt_frame _⟩
  | ldStVx x => exact ⟨_, exec_ldStVx s x, s.setSt_frame _⟩
  | addI x => exact ⟨_, exec_addI s x, s.setI_frame _⟩
  | ldF x => exact ⟨_, exec_ldF s x, s.setI_frame _⟩
  | ldHf x => exact ⟨_, exec_ldHf s x, s.setI_frame _⟩
  | ldB x => exact ⟨_, exec_ldB s x, s.storeBytes_frame _ _⟩
  | storeRegs x => exact ⟨_, exec_storeRegs s x, s.storeBytes_frame _ _⟩
  | loadRegs x => exact ⟨_, exec_loadRegs s x, s.setRegsUpTo_frame x _⟩
  | unknown op => exact ⟨_, exec_unknown s op, s.emitDiag_frame op⟩

variable {i : Instr} {s t : State} {p : Part}

theorem exec_frame (hexec : exec i s = .next t) : SameExcept (s.mayWrite i) s t := by
  obtain ⟨u, hu, hframe⟩ := exec_next_frame i s
  obtain rfl : u = t := Host.Outcome.next.inj (hu.symm.trans hexec)
  exact hframe

/-! ## Which instruction writes a part -/

theorem State.ne_activePart (s : State) (hlo : p ≠ .lowBuffer) (hhi : p ≠ .highBuffer) : p ≠ s.activePart := by
  unfold State.activePart
  split
  · exact hlo
  · exact hhi

theorem keys_not_mem_mayWrite (i : Instr) (s : State) : .keys ∉ s.mayWrite i := by
  have hactive : .keys ≠ s.activePart := s.ne_activePart nofun nofun
  cases i <;> simp [State.mayWrite, hactive]

theorem delayTimer_mem_mayWrite (h : .delayTimer ∈ s.mayWrite i) : ∃ x, i = .ldDtVx x := by
  have hactive : .delayTimer ≠ s.activePart := s.ne_activePart nofun nofun
  cases i with
  | ldDtVx x => exact ⟨x, rfl⟩
  | _ => simp [State.mayWrite, hactive] at h

theorem soundTimer_mem_mayWrite (h : .soundTimer ∈ s.mayWrite i) : ∃ x, i = .ldStVx x := by
  have hactive : .soundTimer ≠ s.activePart := s.ne_activePart nofun nofun
  cases i with
  | ldStVx x => exact ⟨x, rfl⟩
  | _ => simp [State.mayWrite, hactive] at h

theorem keyWait_mem_mayWrite (h : .keyWait ∈ s.mayWrite i) : ∃ x, i = .ldVxK x := by
  have hactive : .keyWait ≠ s.activePart := s.ne_activePart nofun nofun
  cases i with
  | ldVxK x => exact ⟨x, rfl⟩
  | _ => simp [State.mayWrite, hactive] at h

/-! ## Registers, the flag and PC -/

/-- An instruction that writes a register at all writes only those listed for it. -/
theorem exec_regs_frame (hexec : exec i s = .next t) : SameRegsExcept (regsMayWrite i) s t := by
  have hactive : .registers ≠ s.activePart := s.ne_activePart nofun nofun
  have kept : .registers ∉ s.mayWrite i → SameRegsExcept (regsMayWrite i) s t :=
    fun h r _ => exec_frame hexec .registers h r
  cases i with
  | ldImm x | addImm x | ldReg x | ldVxDt x | rnd x => cases hexec; exact s.setReg_regs_frame x _
  | orReg x | andReg x | xorReg x | addReg x | sub x | shr x | subn x | shl x =>
    cases hexec; exact s.setResultAndFlag_regs_frame x _ _
  | drwSuper x y | drw x y => cases hexec; exact s.draw_regs_frame x y _ _
  | loadRegs x => cases hexec; exact s.setRegsUpTo_regs_frame x _
  | _ => exact kept (by simp [State.mayWrite, hactive])

/-- The table of R108: an instruction that is not listed for `PC` keeps the advanced value. -/
theorem exec_pc (hexec : exec i s = .next t) : t.pc = s.pcAfter i := by
  have hactive : .pc ≠ s.activePart := s.ne_activePart nofun nofun
  have kept : .pc ∉ s.mayWrite i → t.pc = s.pc := exec_frame hexec .pc
  cases i with
  | jp | call | jpV0 | ret => cases hexec; rfl
  | seImm | seReg | sneImm | sneReg | skp =>
    cases hexec
    simp [State.skipIf, State.pcAfter]
  | sknp x =>
    cases hexec
    cases hdown : s.keyDown (lowDigit (s.reg x)) <;> simp [State.skipIf, State.pcAfter, hdown]
  | ldVxK x =>
    cases hkw : s.kw with
    | idle =>
      rw [exec_ldVxK_idle x hkw] at hexec
      cases hexec
      simp [State.rewindPc, State.pcAfter, hkw]
    | awaitingRelease d =>
      rw [exec_ldVxK_waiting x hkw] at hexec
      cases hexec
      simp [State.rewindPc, State.pcAfter, hkw]
    | captured =>
      rw [exec_ldVxK_captured x hkw] at hexec
      cases hexec
      simp [State.pcAfter, hkw]
  | _ => exact kept (by simp [State.mayWrite, hactive])

theorem flagByte_eq_zero_or_one (b : Bool) : flagByte b = 0 ∨ flagByte b = 1 := by
  cases b with
  | false => exact .inl rfl
  | true => exact .inr rfl

/-- R137: `VF` ends as the collision report of the draw. -/
theorem State.draw_reg_vf {sw : Nat} (x y : Reg) (rows : Nat) (row : Nat → BitVec sw) : ∀ s : State,
    (s.draw x y rows row).reg 15 = flagByte (drawSprite s.activeBuffer (s.reg x) (s.reg y) rows row).2
  | { mode := .lowRes, .. } | { mode := .highRes, .. } => State.reg_setReg_same _ flagReg _

/-- R13: each of the ten instructions ends with a flag in `VF`, whatever its operands. -/
theorem exec_flag (hexec : exec i s = .next t) (hflag : writesFlag i = true) : ∃ b, t.reg 15 = flagByte b := by
  cases i with
  | orReg x | andReg x | xorReg x => cases hexec; exact ⟨false, s.setResultAndFlag_reg_vf x _ _⟩
  | addReg x | sub x | shr x | subn x | shl x => cases hexec; exact ⟨_, s.setResultAndFlag_reg_vf x _ _⟩
  | drwSuper x y | drw x y => cases hexec; exact ⟨_, State.draw_reg_vf x y _ _ s⟩
  | _ => cases hflag

/-! ## Every step and every sequence of events -/

theorem step_next (s : State) : ∃ t, step s = .next t := by
  obtain ⟨t, hexec, -⟩ := exec_next_frame s.fetchInstr s.advancePc
  exact ⟨t, hexec⟩

/-- A step writes `PC` and what its instruction writes. -/
theorem step_frame (hstep : step s = .next t) : SameExcept (.pc :: s.mayWrite s.fetchInstr) s t :=
  s.advancePc_frame.trans (exec_frame hstep)

theorem handle_next (e : Event) (s : State) : ∃ t, handle e s = .next t := by
  cases e with
  | step => exact step_next s
  | _ => exact ⟨_, rfl⟩

theorem handleAll_cons {e : Event} {es : List Event} (h : handle e s = .next t) :
    handleAll (e :: es) s = handleAll es t := by
  rw [handleAll, h]

theorem handleAll_next (es : List Event) (s : State) : SafeRun es s := by
  induction es generalizing s with
  | nil => exact ⟨s, rfl⟩
  | cons e es ih =>
    obtain ⟨t, ht⟩ := handle_next e s
    obtain ⟨u, hu⟩ := ih t
    exact ⟨u, (handleAll_cons ht).trans hu⟩

end Sys2Proof.Machine

namespace Sys2Proof.Proofs

open Sys2Proof.Machine

/-- Settles O7: every instruction answers a next state, so every step does and every sequence of events. -/
theorem nothingEverFaults : Obligations.NothingEverFaults := by
  refine ⟨fun i s => ?_, step_next, handleAll_next⟩
  obtain ⟨t, hexec, -⟩ := exec_next_frame i s
  exact ⟨t, hexec⟩

/-- Settles O8: a step is its instruction in the advanced state. -/
theorem pcAfterEveryInstruction : Obligations.PcAfterEveryInstruction := by
  intro s
  obtain ⟨t, hstep⟩ := step_next s
  exact ⟨t, hstep, exec_pc hstep⟩

/-- Settles O15, by the frame of each instruction. -/
theorem everyInstructionKeepsTheOtherParts : Obligations.EveryInstructionKeepsTheOtherParts :=
  fun _ _ _ => exec_frame

/-- Settles O16, by the register frame of each instruction. -/
theorem everyInstructionKeepsTheOtherRegisters : Obligations.EveryInstructionKeepsTheOtherRegisters :=
  fun _ _ _ => exec_regs_frame

/-- Settles O17: `VF` holds a flag, and a flag is 0 or 1. -/
theorem flagIsZeroOrOne : Obligations.FlagIsZeroOrOne := by
  intro i s hflag
  obtain ⟨t, hexec, -⟩ := exec_next_frame i s
  obtain ⟨b, hb⟩ := exec_flag hexec hflag
  exact ⟨t, hexec, hb ▸ flagByte_eq_zero_or_one b⟩

/-- Settles O18, from the frame of a step and the one instruction that is listed for each timer. -/
theorem stepsNeitherTickNorSampleKeys : Obligations.StepsNeitherTickNorSampleKeys := by
  intro s t hstep
  have hframe := step_frame hstep
  refine ⟨hframe .keys ?_, fun hdt => hframe .delayTimer ?_, fun hst => hframe .soundTimer ?_⟩
  · simpa using keys_not_mem_mayWrite s.fetchInstr s
  · simpa using fun h => (delayTimer_mem_mayWrite h).elim hdt
  · simpa using fun h => (soundTimer_mem_mayWrite h).elim hst

end Sys2Proof.Proofs
end

section
/-! The invariant of the machine under a step and under every event of the host (spec/10_state.md section 5,
spec/46_keys_timers.md R155, spec/60_exceptions.md section 4), and the statements on it. -/

namespace Sys2Proof.Machine

variable {i : Instr} {s t : State}

/-! ## The instruction at PC -/

/-- Fetch reads the bytes of memory and `PC` modulo 4096, nothing else (R81, R82). -/
theorem fetchInstr_congr (hmem : t.mem = s.mem) (hpc : t.pc.toNat % 4096 = s.pc.toNat % 4096) :
    t.fetchInstr = s.fetchInstr := by
  have hread : ∀ a, t.memRead a = s.memRead a := State.memRead_congr hmem
  rw [State.fetchInstr_eq_decodeBytes, State.fetchInstr_eq_decodeBytes, hpc, hread, hread]

/-- The rewind takes back the advance, modulo 4096 (R81, R151). -/
theorem rewind_advancePc_toNat (s : State) : (s.advancePc.pc - 2).toNat % 4096 = s.pc.toNat % 4096 := by
  have hadvance : s.advancePc.pc.toNat = (s.pc.toNat % 4096 + 2) % 4096 := s.advancePc_pc_toNat
  have htwo : (2 : Word).toNat = 2 := rfl
  rw [BitVec.toNat_sub, hadvance, htwo]
  omega

theorem fetchInstr_of_rewind (hmem : t.mem = s.mem) (hpc : t.pc = s.advancePc.pc - 2) :
    t.fetchInstr = s.fetchInstr :=
  fetchInstr_congr hmem (by rw [hpc, rewind_advancePc_toNat])

/-! ## The key wait -/

theorem waitAtPc_of_idle (hkw : s.kw = .idle) : WaitAtPc s := by
  simp [WaitAtPc, hkw]

theorem waitAtPc_of_captured {x : Reg} (hkw : s.kw = .captured) (hfetch : s.fetchInstr = .ldVxK x) : WaitAtPc s := by
  simp [WaitAtPc, hkw, hfetch]

theorem waitAtPc_awaitingRelease {d : Reg} (hkw : s.kw = .awaitingRelease d) :
    WaitAtPc s ↔ s.fetchInstr = .ldVxK d := by
  simp [WaitAtPc, hkw]

theorem WaitAtPc.congr (h : WaitAtPc s) (hkw : t.kw = s.kw) (hfetch : t.fetchInstr = s.fetchInstr) : WaitAtPc t := by
  rw [WaitAtPc, hkw, hfetch]
  exact h

/-- R155: a machine that is not idle stands at an `Fx0A`. -/
theorem WaitAtPc.idle_of_fetchInstr_ne (h : WaitAtPc s) (hne : ∀ x, s.fetchInstr ≠ .ldVxK x) : s.kw = .idle := by
  cases hkw : s.kw with
  | idle => rfl
  | awaitingRelease d => exact absurd ((waitAtPc_awaitingRelease hkw).1 h) (hne d)
  | captured =>
    obtain ⟨x, hx⟩ : ∃ x, s.fetchInstr = .ldVxK x := by simpa [WaitAtPc, hkw] using h
    exact absurd hx (hne x)

/-- A step that goes on waiting is a write to `PC`, which stays the same modulo 4096. -/
theorem step_waiting {d : Reg} (hkw : s.kw = .awaitingRelease d) (hfetch : s.fetchInstr = .ldVxK d) :
    step s = .next s.advancePc.rewindPc :=
  (step_eq_exec_of_fetchInstr hfetch).trans (exec_ldVxK_waiting (s := s.advancePc) d hkw)

theorem step_keeps_wait (hwait : WaitAtPc s) (hstep : step s = .next t) : WaitAtPc t := by
  by_cases hfetch : ∃ x, s.fetchInstr = .ldVxK x
  · obtain ⟨x, hfetch⟩ := hfetch
    rw [step_eq_exec_of_fetchInstr hfetch] at hstep
    cases hkw : s.kw with
    | idle =>
      rw [exec_ldVxK_idle (s := s.advancePc) x hkw] at hstep
      cases hstep
      have hsame : (s.advancePc.setKw (.awaitingRelease x)).rewindPc.fetchInstr = s.fetchInstr :=
        fetchInstr_of_rewind rfl rfl
      exact (waitAtPc_awaitingRelease rfl).2 (hsame.trans hfetch)
    | awaitingRelease d =>
      rw [exec_ldVxK_waiting (s := s.advancePc) x hkw] at hstep
      cases hstep
      exact hwait.congr rfl (fetchInstr_of_rewind rfl rfl)
    | captured =>
      rw [exec_ldVxK_captured (s := s.advancePc) x hkw] at hstep
      cases hstep
      exact waitAtPc_of_idle rfl
  · have hne : ∀ x, s.fetchInstr ≠ .ldVxK x := fun x hx => hfetch ⟨x, hx⟩
    have hkept : t.kw = s.kw :=
      step_frame hstep .keyWait (by simpa using fun h => (keyWait_mem_mayWrite h).elim hne)
    exact waitAtPc_of_idle (hkept.trans (hwait.idle_of_fetchInstr_ne hne))

/-! ## Memory, stack and PC under one instruction -/

theorem exec_keeps_wf (hwf : s.mem.wf = true) (hexec : exec i s = .next t) : t.mem.wf = true := by
  cases i with
  | ldB | storeRegs => cases hexec; exact Memory.wf_writeBytes hwf _ _
  | scd | cls | scr | scl => cases hexec; exact (s.updateActive_mem _).symm ▸ hwf
  | drw x y | drwSuper x y => cases hexec; exact (s.draw_mem x y _ _).symm ▸ hwf
  | low =>
    cases hm : s.mode with
    | lowRes => rw [exec_low_lowRes hm] at hexec; cases hexec; exact hwf
    | highRes => rw [exec_low_highRes hm] at hexec; cases hexec; exact hwf
  | high =>
    cases hm : s.mode with
    | lowRes => rw [exec_high_lowRes hm] at hexec; cases hexec; exact hwf
    | highRes => rw [exec_high_highRes hm] at hexec; cases hexec; exact hwf
  | ldVxK x =>
    cases hkw : s.kw with
    | idle => rw [exec_ldVxK_idle x hkw] at hexec; cases hexec; exact hwf
    | awaitingRelease d => rw [exec_ldVxK_waiting x hkw] at hexec; cases hexec; exact hwf
    | captured => rw [exec_ldVxK_captured x hkw] at hexec; cases hexec; exact hwf
  | _ => cases hexec; exact hwf

/-- A call stores the advanced `PC`, which is below 4096, and no other instruction stores an entry. -/
theorem exec_keeps_stackInRange (hstack : StackInRange s) (hpc : s.pc.toNat < Config.memSize)
    (hexec : exec i s = .next t) : StackInRange t := by
  have hactive : .stack ≠ s.activePart := s.ne_activePart nofun nofun
  have kept : .stack ∉ s.mayWrite i → StackInRange t := fun h k => by
    obtain ⟨hsame, -⟩ := exec_frame hexec .stack h
    rw [hsame]
    exact hstack k
  cases i with
  | ret => cases hexec; exact hstack
  | call nnn =>
    cases hexec
    intro k
    change (s.push s.pc).stack[k].toNat < Config.memSize
    by_cases hk : k = s.sp
    · rw [hk, State.push_stack_at_sp]
      exact hpc
    · rw [s.push_stack_of_ne s.pc hk]
      exact hstack k
  | _ => exact kept (by simp [State.mayWrite, hactive])

/-- R107: a byte and an address add up below 65536, so the sum does not wrap. -/
theorem byteOperand_add_addrOperand_toNat (b : Byte) (nnn : Addr) :
    (byteOperand b + addrOperand nnn).toNat = b.toNat + nnn.toNat := by
  have hb := b.isLt
  have hnnn := nnn.isLt
  rw [BitVec.toNat_add_of_lt] <;> rw [byteOperand_toNat, addrOperand_toNat]
  omega

/-- Every row of the table of R108 gives a value of R17, from an advanced `PC`. -/
theorem pcInRange_of_exec (hstack : StackInRange s) (hpc : s.pc.toNat < 4096) (hexec : exec i s = .next t) :
    PcInRange t := by
  have hadvanced : s.pc.toNat ≤ 0x10FE := by omega
  have hskip : (s.pc + 2).toNat ≤ 0x10FE := by bv_omega
  have haddr : ∀ nnn : Addr, (addrOperand nnn).toNat ≤ 0xFFF := fun nnn =>
    (addrOperand_toNat nnn).trans_le (Nat.le_of_lt_succ nnn.isLt)
  unfold PcInRange
  rw [exec_pc hexec]
  cases i with
  | jp nnn | call nnn => exact .inl ((haddr nnn).trans (by decide))
  | jpV0 nnn =>
    have hv0 : (s.reg 0).toNat ≤ 0xFF := Nat.le_of_lt_succ (s.reg 0).isLt
    have hnnn : nnn.toNat ≤ 0xFFF := Nat.le_of_lt_succ nnn.isLt
    exact .inl ((byteOperand_add_addrOperand_toNat (s.reg 0) nnn).trans_le (Nat.add_le_add hv0 hnnn))
  | ret =>
    have hentry : (s.stack[s.sp - 1]).toNat < 4096 := hstack (s.sp - 1)
    exact .inl (hentry.le.trans (by decide))
  | seImm | sneImm | seReg | sneReg | skp | sknp =>
    simp only [State.pcAfter]
    split
    · exact .inl ‹_›
    · exact .inl ‹_›
  | ldVxK x =>
    simp only [State.pcAfter]
    split
    · exact .inl hadvanced
    · by_cases hlow : s.pc.toNat < 2
      · exact .inr (by bv_omega)
      · exact .inl (by bv_omega)
  | _ => exact .inl hadvanced

/-! ## The invariant -/

theorem step_keeps_inv (hinv : Inv s) (hstep : step s = .next t) : Inv t := by
  obtain ⟨hwf, hstack, -, hwait⟩ := hinv
  have hpc : s.advancePc.pc.toNat < Config.memSize := by
    rw [s.advancePc_pc_toNat]
    exact Nat.mod_lt _ (by decide)
  have hexec : exec s.fetchInstr s.advancePc = .next t := hstep
  have hstackAdvanced : StackInRange s.advancePc := hstack
  exact ⟨exec_keeps_wf (s := s.advancePc) hwf hexec, exec_keeps_stackInRange hstackAdvanced hpc hexec,
    pcInRange_of_exec hstackAdvanced hpc hexec, step_keeps_wait hwait hstep⟩

/-- The invariant speaks of memory, the stack, `PC` and the key wait only. -/
theorem Inv.congr (hinv : Inv s) (hmem : t.mem = s.mem) (hstack : t.stack = s.stack) (hpc : t.pc = s.pc)
    (hkw : t.kw = s.kw) : Inv t := by
  obtain ⟨hwf, hrange, hpcrange, hwait⟩ := hinv
  have hfetch : t.fetchInstr = s.fetchInstr := fetchInstr_congr hmem (by rw [hpc])
  refine ⟨hmem ▸ hwf, fun k => ?_, ?_, hwait.congr hkw hfetch⟩
  · rw [hstack]
    exact hrange k
  · rw [PcInRange, hpc]
    exact hpcrange

theorem inv_reset : Inv State.reset := by
  refine ⟨Memory.wf_nil, fun k => ?_, .inl (by decide), waitAtPc_of_idle rfl⟩
  simp [State.reset, Config.memSize]

theorem inv_resetEvent (s : State) : Inv (resetEvent s) := inv_reset.congr rfl rfl rfl rfl

/-- R194: a program that fits is stored from `0x200` on in the reset machine. -/
theorem load_of_le_maxProgram {rom : List Byte} (hfits : rom.length ≤ Config.maxProgram) (s : State) :
    load rom s = (true, (resetEvent s).storeBytes Config.loadAddress rom) :=
  if_pos hfits

theorem load_keeps_inv (hinv : Inv s) (rom : List Byte) : Inv (load rom s).2 := by
  by_cases hfits : rom.length ≤ Config.maxProgram
  · rw [load_of_le_maxProgram hfits]
    obtain ⟨hwf, hstack, hpc, -⟩ := inv_resetEvent s
    exact ⟨Memory.wf_writeBytes hwf _ _, hstack, hpc, waitAtPc_of_idle rfl⟩
  · rw [load_of_maxProgram_lt s (not_le.1 hfits)]
    exact hinv

/-- R172: a release outside a wait is a write to the latch. -/
theorem keyEvent_release_not_waiting (k : Reg) (hkw : ∀ d, s.kw ≠ .awaitingRelease d) :
    keyEvent k false s = s.setKey k false := by
  cases h : s.kw with
  | awaitingRelease d => exact absurd h (hkw d)
  | idle | captured => simp [keyEvent, captureRelease, h]

theorem keyEvent_keeps_inv (hinv : Inv s) (k : Reg) (isDown : Bool) : Inv (keyEvent k isDown s) := by
  cases isDown with
  | true =>
    rw [keyEvent_press]
    exact hinv.congr rfl rfl rfl rfl
  | false =>
    by_cases hwaiting : ∃ d, s.kw = .awaitingRelease d
    · obtain ⟨d, hkw⟩ := hwaiting
      obtain ⟨hwf, hstack, hpc, hwait⟩ := hinv
      rw [keyEvent_release_waiting k hkw]
      exact ⟨hwf, hstack, hpc, waitAtPc_of_captured rfl ((waitAtPc_awaitingRelease hkw).1 hwait)⟩
    · rw [keyEvent_release_not_waiting k fun d hd => hwaiting ⟨d, hd⟩]
      exact hinv.congr rfl rfl rfl rfl

theorem handle_keeps_inv (e : Event) (hinv : Inv s) (hevent : handle e s = .next t) : Inv t := by
  cases e with
  | step => exact step_keeps_inv hinv hevent
  | tick => cases hevent; exact hinv.congr rfl rfl rfl rfl
  | keyEvent k isDown => cases hevent; exact keyEvent_keeps_inv hinv k isDown
  | reset => cases hevent; exact inv_resetEvent s
  | load rom => cases hevent; exact load_keeps_inv hinv rom
  | observe => cases hevent; exact hinv

theorem handleAll_keeps_inv (es : List Event) (hinv : Inv s) (hevents : handleAll es s = .next t) : Inv t := by
  induction es generalizing s with
  | nil => cases hevents; exact hinv
  | cons e es ih =>
    obtain ⟨u, hu⟩ := handle_next e s
    rw [handleAll_cons hu] at hevents
    exact ih (handle_keeps_inv e hinv hu) hevents

end Sys2Proof.Machine

namespace Sys2Proof.Proofs

open Sys2Proof.Machine

/-- Settles O10, clause by clause: the step is the fetched instruction in the advanced state. -/
theorem stepKeepsTheInvariant : Obligations.StepKeepsTheInvariant :=
  fun _ _ => step_keeps_inv

/-- Settles O11: nothing is listed in memory, the stack is zero, `PC` is `0x200` and no key wait is in progress. -/
theorem resetMeetsTheInvariant : Obligations.ResetMeetsTheInvariant := inv_reset

/-- Settles O12, by cases on the event and by induction on the sequence of events. -/
theorem everyEventKeepsTheInvariant : Obligations.EveryEventKeepsTheInvariant :=
  ⟨fun e _ _ => handle_keeps_inv e, fun _ ⟨es, hes⟩ => handleAll_keeps_inv es inv_reset hes⟩

/-- Settles O13: the invariant puts the waiting `Fx0A` at `PC`, and its rewind takes back the advance. -/
theorem waitingStepsChangeNothing : Obligations.WaitingStepsChangeNothing := by
  intro s d hinv hkw
  have hfetch : s.fetchInstr = .ldVxK d := (waitAtPc_awaitingRelease hkw).1 hinv.wait
  exact ⟨s.advancePc.rewindPc, step_waiting hkw hfetch, s.setPc_frame _, rewind_advancePc_toNat s⟩

end Sys2Proof.Proofs
end

section
/-! Canonical memories, and the block store and load at `I` (spec/20_memory.md sections 2 and 6,
spec/44_index_memory.md R129 to R132), and the statements on them. -/

namespace Sys2Proof.Machine

/-! ## The canonical form -/

section Canonical

variable {m n : Memory} {a b low : Nat} {u v : Byte}

theorem Memory.wfFrom_cons : Memory.wfFrom low ((a, u) :: m) = true ↔
    (low ≤ a ∧ a < Config.memSize ∧ u ≠ Memory.initial a) ∧ Memory.wfFrom (a + 1) m = true := by
  simp [Memory.wfFrom, and_assoc]

@[simp] theorem Memory.lookup_cons_same (m : Memory) (a : Nat) (u : Byte) : Memory.lookup ((a, u) :: m) a = some u :=
  if_pos rfl

theorem Memory.lookup_cons_ne (m : Memory) (u : Byte) (hne : b ≠ a) :
    Memory.lookup ((a, u) :: m) b = Memory.lookup m b :=
  if_neg hne.symm

/-- A listed byte is at an address below 4096 and differs from the reset contents. -/
theorem Memory.listed_of_wfFrom (hwf : Memory.wfFrom low m = true) (h : m.lookup b = some v) :
    b < Config.memSize ∧ v ≠ Memory.initial b := by
  induction m generalizing low with
  | nil => cases h
  | cons c m ih =>
    obtain ⟨a, u⟩ := c
    obtain ⟨⟨-, hsize, hne⟩, htail⟩ := Memory.wfFrom_cons.1 hwf
    by_cases hb : b = a
    · rw [hb, Memory.lookup_cons_same] at h
      cases h
      exact hb ▸ ⟨hsize, hne⟩
    · rw [Memory.lookup_cons_ne m u hb] at h
      exact ih htail h

theorem Memory.read_eq_getD (m : Memory) (h : a < Config.memSize) :
    m.read a = (m.lookup a).getD (Memory.initial a) := by
  simp only [Memory.read, Nat.mod_eq_of_lt h]
  cases m.lookup a <;> rfl

/-- What a canonical memory lists can be read off its bytes: a byte is listed when it is not the reset contents. -/
theorem Memory.lookup_eq_some_iff_read (hwf : m.wf = true) :
    m.lookup a = some v ↔ a < Config.memSize ∧ v ≠ Memory.initial a ∧ m.read a = v := by
  constructor
  · intro h
    obtain ⟨hsize, hne⟩ := Memory.listed_of_wfFrom hwf h
    exact ⟨hsize, hne, by rw [Memory.read_eq_getD m hsize, h]; rfl⟩
  · rintro ⟨hsize, hne, hread⟩
    rw [Memory.read_eq_getD m hsize] at hread
    cases h : m.lookup a with
    | none =>
      rw [h] at hread
      exact absurd hread.symm hne
    | some u =>
      rw [h] at hread
      exact congrArg some hread

/-- The first entry has the smallest address listed. -/
theorem Memory.head_le_of_lookup (hwf : Memory.wfFrom low ((a, u) :: m) = true)
    (h : Memory.lookup ((a, u) :: m) b = some v) : a ≤ b := by
  obtain ⟨⟨-, hsize, hne⟩, htail⟩ := Memory.wfFrom_cons.1 hwf
  have hfrom : Memory.wfFrom a ((a, u) :: m) = true := Memory.wfFrom_cons.2 ⟨⟨le_rfl, hsize, hne⟩, htail⟩
  by_contra hlt
  rw [Memory.lookup_below hfrom (not_le.1 hlt)] at h
  cases h

/-- Canonical memories that list the same bytes are the same list: its addresses rise. -/
theorem Memory.eq_of_lookup_eq (hm : m.wfFrom low = true) (hn : n.wfFrom low = true)
    (hsame : ∀ b, m.lookup b = n.lookup b) : m = n := by
  induction m generalizing low n with
  | nil =>
    cases n with
    | nil => rfl
    | cons d n =>
      have := hsame d.1
      simp [Memory.lookup] at this
  | cons c m ih =>
    obtain ⟨a, u⟩ := c
    cases n with
    | nil =>
      have := hsame a
      simp [Memory.lookup] at this
    | cons d n =>
      obtain ⟨b, v⟩ := d
      obtain ⟨-, hmtail⟩ := Memory.wfFrom_cons.1 hm
      obtain ⟨-, hntail⟩ := Memory.wfFrom_cons.1 hn
      have hab : a = b := Nat.le_antisymm
        (Memory.head_le_of_lookup hm ((hsame b).trans (Memory.lookup_cons_same n b v)))
        (Memory.head_le_of_lookup hn ((hsame a).symm.trans (Memory.lookup_cons_same m a u)))
      subst hab
      have huv : some u = some v := by
        rw [← Memory.lookup_cons_same m a u, hsame, Memory.lookup_cons_same]
      cases huv
      have htails : ∀ b, Memory.lookup m b = Memory.lookup n b := fun b => by
        by_cases hb : b = a
        · rw [hb, Memory.lookup_below hmtail (by omega), Memory.lookup_below hntail (by omega)]
        · rw [← Memory.lookup_cons_ne m u hb, hsame, Memory.lookup_cons_ne n u hb]
      rw [ih hmtail hntail htails]

end Canonical

/-! ## A block at I -/

section Block

variable (s : State)

theorem State.effectiveAddress_zero_add (k : Nat) :
    (s.effectiveAddress 0 + k) % Config.memSize = s.effectiveAddress k := by
  simp [State.effectiveAddress]

theorem State.memRead_store_at_index (bs : List Byte) (hlen : bs.length ≤ Config.memSize) (k : Nat)
    (hk : k < bs.length) : (s.storeBytes (s.effectiveAddress 0) bs).memRead (s.i.toNat + k) = bs[k] := by
  have hsame : (s.i.toNat + k) % Config.memSize = (s.effectiveAddress 0 + k) % Config.memSize :=
    (s.effectiveAddress_zero_add k).symm
  rw [← State.memRead_mod, hsame, State.memRead_mod]
  exact s.memRead_storeBytes_inside _ bs hlen k hk

theorem State.store_at_index_memory_frame (bs : List Byte) (hlen : bs.length ≤ Config.memSize) :
    SameMemoryExcept ((List.range bs.length).map s.effectiveAddress) s (s.storeBytes (s.effectiveAddress 0) bs) := by
  intro a ha
  refine s.memRead_storeBytes_outside _ bs hlen a fun k hk hka => ha ?_
  rw [← hka, s.effectiveAddress_zero_add]
  exact List.mem_map_of_mem (List.mem_range.2 hk)

variable (x : Reg)

@[simp] theorem State.length_regsUpTo : (s.regsUpTo x).length = x.val + 1 := by
  simp only [State.regsUpTo, List.length_take, Vector.length_toList]
  omega

theorem State.length_regsUpTo_le : (s.regsUpTo x).length ≤ Config.memSize := by
  rw [State.length_regsUpTo, Config.memSize]
  omega

theorem State.getElem_regsUpTo (k : Reg) (hk : k.val < (s.regsUpTo x).length) : (s.regsUpTo x)[k.val] = s.reg k := by
  simp [State.regsUpTo, State.reg]

/-- R131: each of `V0` to `Vx` reads back at `I` upward. -/
theorem State.memRead_storeRegs {k : Reg} (hk : k ≤ x) :
    (s.storeBytes (s.effectiveAddress 0) (s.regsUpTo x)).memRead (s.i.toNat + k.val) = s.reg k := by
  have hlt : k.val < (s.regsUpTo x).length := by
    rw [State.length_regsUpTo]
    exact Nat.lt_succ_of_le hk
  rw [s.memRead_store_at_index _ (s.length_regsUpTo_le x) k.val hlt, State.getElem_regsUpTo]

/-- R132: each of `V0` to `Vx` is the byte at `I` upward. -/
theorem State.reg_loadRegs {k : Reg} (hk : k ≤ x) :
    (s.setRegsUpTo x s.loadIndexed).reg k = s.memRead (s.i.toNat + k.val) := by
  rw [State.reg_setRegsUpTo, if_pos hk, State.loadIndexed_eq]

theorem State.reg_loadRegs_above {k : Reg} (hk : x < k) : (s.setRegsUpTo x s.loadIndexed).reg k = s.reg k := by
  rw [State.reg_setRegsUpTo, if_neg (not_le.2 hk)]

/-- The instruction at an address that is `PC` modulo 4096. -/
theorem State.fetchInstr_at {s : State} {a : Nat} (h : a % 4096 = s.pc.toNat % 4096) :
    s.fetchInstr = decodeBytes (s.memRead a) (s.memRead (a + 1)) := by
  have hmod : ∀ b, s.memRead (b % 4096) = s.memRead b := s.memRead_mod
  have hnext : (a % 4096 + 1) % 4096 = (a + 1) % 4096 := by omega
  rw [State.fetchInstr_eq_decodeBytes, ← h, hmod, ← hmod (a % 4096 + 1), hnext, hmod]

end Block

/-! ## Decimal digits -/

/-- R130: hundreds, tens and ones of a byte, each a byte of its own, read back at `I` upward. -/
theorem State.memRead_storeDigits {s t : State} {b : Byte}
    (ht : t = s.storeBytes (s.effectiveAddress 0) (decimalDigits b)) :
    (t.memRead s.i.toNat).toNat = b.toNat / 100 ∧ (t.memRead (s.i.toNat + 1)).toNat = b.toNat / 10 % 10 ∧
      (t.memRead (s.i.toNat + 2)).toNat = b.toNat % 10 := by
  have hb := b.isLt
  have stored := fun k hk => s.memRead_store_at_index (decimalDigits b) (by decide : 3 ≤ Config.memSize) k hk
  have digit : ∀ {d : Nat}, d < 2 ^ 8 → (BitVec.ofNat 8 d).toNat = d := Nat.mod_eq_of_lt
  rw [ht]
  exact ⟨(congrArg BitVec.toNat (stored 0 (by decide : 0 < 3))).trans (digit (by omega)),
    (congrArg BitVec.toNat (stored 1 (by decide : 1 < 3))).trans (digit (by omega)),
    (congrArg BitVec.toNat (stored 2 (by decide : 2 < 3))).trans (digit (by omega))⟩

end Sys2Proof.Machine

namespace Sys2Proof.Proofs

open Sys2Proof.Machine

/-- Settles O14: the bytes say what a canonical memory lists, and that says the list. -/
theorem canonicalMemoriesWithTheSameBytesAreEqual : Obligations.CanonicalMemoriesWithTheSameBytesAreEqual := by
  intro m n hm hn hread
  refine Memory.eq_of_lookup_eq hm hn fun a => Option.ext fun v => ?_
  rw [Memory.lookup_eq_some_iff_read hm, Memory.lookup_eq_some_iff_read hn]
  exact and_congr_right fun hsize => by rw [hread a hsize]

/-- Settles O40, from the digits as numbers and the rules of a block store at `I`. -/
theorem decimalDigitsAreStored : Obligations.DecimalDigitsAreStored := by
  intro x s
  obtain ⟨hundreds, tens, ones⟩ := State.memRead_storeDigits (s := s) (b := s.reg x) rfl
  exact ⟨_, exec_ldB s x, hundreds, tens, ones,
    s.store_at_index_memory_frame (decimalDigits (s.reg x)) (by decide : 3 ≤ Config.memSize), s.storeBytes_frame _ _⟩

/-- Settles O41: a block store at `I` of `x + 1` registers. -/
theorem registersAreStored : Obligations.RegistersAreStored := by
  intro x s
  have hframe := s.store_at_index_memory_frame (s.regsUpTo x) (s.length_regsUpTo_le x)
  rw [State.length_regsUpTo] at hframe
  exact ⟨_, exec_storeRegs s x, fun _ => s.memRead_storeRegs x, hframe, s.storeBytes_frame _ _⟩

/-- Settles O42: a block load at `I`. -/
theorem registersAreLoaded : Obligations.RegistersAreLoaded :=
  fun x s => ⟨_, exec_loadRegs s x, fun _ => s.reg_loadRegs x, fun _ => s.reg_loadRegs_above x,
    s.setRegsUpTo_frame x _⟩

/-- Settles O43: the load reads the bytes that the store left, which no register write touches. -/
theorem storedRegistersComeBack : Obligations.StoredRegistersComeBack := by
  intro x s
  refine ⟨_, exec_storeRegs s x, fun v => ⟨_, exec_loadRegs _ x, fun k hk => ?_, fun k hk => ?_⟩⟩
  · exact (State.reg_loadRegs _ x hk).trans (s.memRead_storeRegs x hk)
  · exact State.reg_loadRegs_above _ x hk

/-- Settles O9: fetch reads memory at `I` and `I + 1`, where the store put `V0` and `V1`. -/
theorem nextFetchSeesABlockStore : Obligations.NextFetchSeesABlockStore := by
  intro s x hx haddr
  refine ⟨_, exec_storeRegs s x, ?_⟩
  have h0 := s.memRead_storeRegs x (Fin.zero_le x)
  have h1 := s.memRead_storeRegs x hx
  exact (State.fetchInstr_at (s := s.storeBytes _ _) haddr).trans (congrArg₂ decodeBytes h0 h1)

end Sys2Proof.Proofs
end

section
/-! Skips, jumps, calls and returns (spec/42_control_transfer.md, spec/46_keys_timers.md section 1), and the statements on
them. -/

namespace Sys2Proof.Machine

variable {i : Instr} {s t u : State}

/-! ## Frames in a row -/

theorem SameExcept.trans_same {ps : List Part} (hst : SameExcept ps s t) (htu : SameExcept ps t u) :
    SameExcept ps s u :=
  (hst.trans htu).mono (by simp)

/-! ## Skips -/

/-- R106: every skip adds 2 to `PC` under its own condition and changes nothing else. -/
theorem skip_effect {taken : Bool} {condition : Prop} [Decidable condition]
    (hexec : exec i s = .next (s.skipIf taken)) (hcond : taken = true ↔ condition) :
    ∃ t, exec i s = .next t ∧ t.pc = (if condition then s.pc + 2 else s.pc) ∧ SameExcept [.pc] s t :=
  ⟨_, hexec, if_congr hcond rfl rfl, s.skipIf_frame taken⟩

/-- R104, R105: with another last digit the two patterns are no instruction (D3). -/
theorem decode_registerSkip_unknown (x y : Reg) {n : Nibble} (hn : n ≠ 0) :
    decode (wordXyn 0x5 x y n) = .unknown (wordXyn 0x5 x y n) ∧
      decode (wordXyn 0x9 x y n) = .unknown (wordXyn 0x9 x y n) := by
  have hn0 : n ≠ 0#4 := hn
  simp [decode, wordXyn, hn0]

/-- R145: the key that `Ex9E` and `ExA1` test is `Vx` modulo 16. -/
theorem keyDown_lowDigit {k : Reg} {b : Byte} (hk : k.val = b.toNat % 16) : s.keyDown (lowDigit b) = s.key[k] := by
  have hdigit : lowDigit b = k := Fin.ext ((lowDigit_val b).trans hk.symm)
  rw [hdigit, State.keyDown]

/-! ## Returns -/

theorem execTimes_succ (n : Nat) (hexec : exec i s = .next t) : execTimes i (n + 1) s = execTimes i n t := by
  rw [execTimes, hexec]

/-- A return after a call leaves the state that the push and the pop leave. -/
theorem ret_after_call (nnn : Addr) (s : State) :
    exec .ret ((s.push s.pc).setPc (addrOperand nnn)) = .next (s.push s.pc).dropTop := by
  have htop : ((s.push s.pc).setPc (addrOperand nnn)).top = s.pc := s.top_push s.pc
  rw [exec_ret, htop]
  rfl

/-- Each return goes one entry back round the ring of 16, and none writes an entry (R19, R92). -/
theorem returns_walk (k : Nat) (s : State) : ∃ t, execTimes .ret (k + 1) s = .next t ∧
    (t.sp.val + (k + 1)) % 16 = s.sp.val ∧ t.pc = s.stack[t.sp] ∧ SameExcept [.pc, .stack] s t ∧
      t.stack = s.stack := by
  induction k generalizing s with
  | zero =>
    refine ⟨_, execTimes_succ 0 (exec_ret s), ?_, rfl, s.dropTop_setPc_frame s.top, rfl⟩
    have hsp := s.dropTop_sp_val
    change (s.dropTop.sp.val + 1) % 16 = s.sp.val
    omega
  | succ k ih =>
    let first := s.dropTop.setPc s.top
    obtain ⟨t, htimes, hback, hpc, hframe, hstack⟩ := ih first
    have hfirst : first.sp.val = (s.sp.val + 15) % 16 := s.dropTop_sp_val
    refine ⟨t, (execTimes_succ (k + 1) (exec_ret s)).trans htimes, ?_, hpc,
      (s.dropTop_setPc_frame s.top).trans_same hframe, hstack⟩
    omega

end Sys2Proof.Machine

namespace Sys2Proof.Proofs

open Sys2Proof.Machine

/-- Settles O26, by induction on the number of returns. -/
theorem returnsWalkRoundTheStack : Obligations.ReturnsWalkRoundTheStack := returns_walk

/-- Settles O27: each jump is one write to `PC`, and neither operand reaches 65536. -/
theorem jumpsLoadPc : Obligations.JumpsLoadPc :=
  fun nnn s => ⟨⟨_, exec_jp s nnn, addrOperand_toNat nnn, s.setPc_frame _⟩,
    ⟨_, exec_jpV0 s nnn, byteOperand_add_addrOperand_toNat (s.reg 0) nnn, s.setPc_frame _⟩⟩

/-- Settles O29: the pop takes back the push, and `PC` is loaded with what was pushed. -/
theorem returnUndoesACall : Obligations.ReturnUndoesACall :=
  fun nnn s => ⟨_, _, exec_call s nnn, ret_after_call nnn s, rfl, s.sp_dropTop_push s.pc,
    (s.push_frame s.pc).trans_same (s.push s.pc).dropTop_frame⟩

/-- Settles O30: two skips, on equality with the immediate and on its opposite. -/
theorem immediateSkips : Obligations.ImmediateSkips :=
  fun x kk s => ⟨skip_effect (exec_seImm s x kk) beq_iff_eq, skip_effect (exec_sneImm s x kk) bne_iff_ne⟩

/-- Settles O31: two skips, on equality of two registers and on its opposite. -/
theorem registerSkips : Obligations.RegisterSkips :=
  ⟨fun x y s => ⟨skip_effect (exec_seReg s x y) beq_iff_eq, skip_effect (exec_sneReg s x y) bne_iff_ne⟩,
    fun x y _ => decode_registerSkip_unknown x y⟩

/-- Settles O47: two skips, on the latch of the key and on its opposite. -/
theorem keySkips : Obligations.KeySkips := by
  intro x k s hk
  have hkey : s.keyDown (lowDigit (s.reg x)) = s.key[k] := keyDown_lowDigit hk
  refine ⟨skip_effect (exec_skp s x) ?_, skip_effect (exec_sknp s x) ?_⟩
  · rw [hkey]
  · rw [hkey, Bool.not_eq_true']

end Sys2Proof.Proofs
end

section
/-! Arithmetic, shifts, the random byte and the glyph addresses (spec/43_alu.md, spec/44_index_memory.md R127 and R128),
and the statements on them. -/

namespace Sys2Proof.Machine

variable {i : Instr} {s : State} {x : Reg}

/-- What every instruction that writes one register, and no flag, has in common. -/
theorem setReg_effect {b : Byte} (hexec : exec i s = .next (s.setReg x b)) :
    ∃ t, exec i s = .next t ∧ t.reg x = b ∧ SameRegsExcept [x] s t ∧ SameExcept [.registers] s t :=
  ⟨_, hexec, s.reg_setReg_same x b, s.setReg_regs_frame x b, s.setReg_frame x b⟩

/-- What every instruction that writes a result and a flag has in common (R13, R14). -/
theorem resultAndFlag_effect {result flag : Byte} (hexec : exec i s = .next (s.setResultAndFlag x result flag)) :
    ∃ t, exec i s = .next t ∧ t.reg 15 = flag ∧ (x ≠ 15 → t.reg x = result) ∧
      SameRegsExcept [x, 15] s t ∧ SameExcept [.registers] s t :=
  ⟨_, hexec, s.setResultAndFlag_reg_vf x result flag, s.setResultAndFlag_reg_destination x result flag,
    s.setResultAndFlag_regs_frame x result flag, s.setResultAndFlag_frame x result flag⟩

/-! ## Values -/

theorem sub_toNat (a b : Byte) : (a - b).toNat = (a.toNat + 256 - b.toNat) % 256 := by
  have hb := b.isLt
  rw [BitVec.toNat_sub]
  congr 1
  omega

theorem flagByte_toNat (b : Bool) : (flagByte b).toNat = b.toNat := by
  cases b <;> rfl

theorem shiftRight_one_toNat (a : Byte) : (a >>> 1).toNat = a.toNat / 2 := by
  rw [BitVec.toNat_ushiftRight, Nat.shiftRight_eq_div_pow, pow_one]

theorem shiftLeft_one_toNat (a : Byte) : (a <<< 1).toNat = 2 * a.toNat % 256 := by
  rw [BitVec.toNat_shiftLeft, Nat.shiftLeft_eq, pow_one, Nat.mul_comm]

/-- R118: bit 0 is the remainder that halving drops. -/
theorem shiftRightFlag_toNat (a : Byte) : (shiftRightFlag a).toNat = a.toNat % 2 := by
  rw [shiftRightFlag, flagByte_toNat, BitVec.getLsbD, Nat.toNat_testBit, pow_zero, Nat.div_one]

/-- R120: bit 7 is what doubling carries out. -/
theorem shiftLeftFlag_toNat (a : Byte) : (shiftLeftFlag a).toNat = a.toNat / 128 := by
  have ha := a.isLt
  rw [shiftLeftFlag, flagByte_toNat, BitVec.getLsbD, Nat.toNat_testBit]
  omega

/-- R127: a glyph of 5 bytes; the address of the last one still fits. -/
theorem glyphLoAddress_toNat (b : Byte) : (glyphLoAddress (lowDigit b)).toNat = 5 * (b.toNat % 16) := by
  rw [glyphLoAddress, lowDigit_val, BitVec.toNat_ofNat]
  omega

/-- R128: a glyph of 10 bytes, behind the low-resolution font. -/
theorem glyphHiAddress_toNat (b : Byte) : (glyphHiAddress (lowDigit b)).toNat = 80 + 10 * (b.toNat % 16) := by
  rw [glyphHiAddress, lowDigit_val, BitVec.toNat_ofNat]
  omega

/-- Masking with `kk` leaves no bit outside `kk`. -/
theorem and_and_not_self (b kk : Byte) : b &&& kk &&& ~~~kk = 0 := by
  rw [BitVec.and_assoc, BitVec.and_not_self]
  exact BitVec.and_zero

end Sys2Proof.Machine

namespace Sys2Proof.Proofs

open Sys2Proof.Machine

/-- Settles O32: each of the three is one write of a register. -/
theorem loadAddImmediateAndCopy : Obligations.LoadAddImmediateAndCopy := by
  intro x y kk s
  refine ⟨setReg_effect (exec_ldImm s x kk), ?_, setReg_effect (exec_ldReg s x y)⟩
  obtain ⟨t, hexec, hsum, hframes⟩ := setReg_effect (exec_addImm s x kk)
  exact ⟨t, hexec, hsum ▸ BitVec.toNat_add _ _, hframes⟩

/-- Settles O34: the flag is the carry of the 9-bit sum. -/
theorem addSetsTheCarry : Obligations.AddSetsTheCarry := by
  intro x y s
  obtain ⟨t, hexec, hflag, hsum, hframes⟩ := resultAndFlag_effect (exec_addReg s x y)
  exact ⟨t, hexec, hflag.trans (carryFlag_eq _ _), fun hx => hsum hx ▸ BitVec.toNat_add _ _, hframes⟩

/-- Settles O35: the two instructions differ in which operand is the minuend. -/
theorem subtractSetsNotBorrow : Obligations.SubtractSetsNotBorrow := by
  intro x y s
  constructor
  · obtain ⟨t, hexec, hflag, hdiff, hframes⟩ := resultAndFlag_effect (exec_sub s x y)
    exact ⟨t, hexec, hflag.trans (notBorrowFlag_eq _ _), fun hx => hdiff hx ▸ sub_toNat _ _, hframes⟩
  · obtain ⟨t, hexec, hflag, hdiff, hframes⟩ := resultAndFlag_effect (exec_subn s x y)
    exact ⟨t, hexec, hflag.trans (notBorrowFlag_eq _ _), fun hx => hdiff hx ▸ sub_toNat _ _, hframes⟩

/-- Settles O36: half and remainder, and double and carry, of the old `Vx`. -/
theorem shiftsSetTheBitShiftedOut : Obligations.ShiftsSetTheBitShiftedOut := by
  intro x y s
  constructor
  · obtain ⟨t, hexec, hflag, hhalf, hframes⟩ := resultAndFlag_effect (exec_shr s x y)
    exact ⟨t, hexec, hflag ▸ shiftRightFlag_toNat _, fun hx => hhalf hx ▸ shiftRight_one_toNat _, hframes⟩
  · obtain ⟨t, hexec, hflag, hdouble, hframes⟩ := resultAndFlag_effect (exec_shl s x y)
    exact ⟨t, hexec, hflag ▸ shiftLeftFlag_toNat _, fun hx => hdouble hx ▸ shiftLeft_one_toNat _, hframes⟩

/-- Settles O37: one write of a register and one draw counted. -/
theorem randomByteIsMasked : Obligations.RandomByteIsMasked := by
  intro x kk s
  have hbyte : (s.maskRandom (Config.rnd s.draws) x kk).reg x = Config.rnd s.draws &&& kk := s.reg_setReg_same x _
  exact ⟨_, exec_rnd s x kk, hbyte, hbyte ▸ and_and_not_self _ kk, rfl, s.setReg_regs_frame x _,
    s.maskRandom_frame _ x kk⟩

/-- Settles O39: both instructions are one write to `I`, of the address of a glyph. -/
theorem glyphAddresses : Obligations.GlyphAddresses :=
  fun x s => ⟨⟨_, exec_ldF s x, glyphLoAddress_toNat (s.reg x), s.setI_frame _⟩,
    ⟨_, exec_ldHf s x, glyphHiAddress_toNat (s.reg x), s.setI_frame _⟩⟩

end Sys2Proof.Proofs
end

section
/-! The key wait and the host's events (spec/46_keys_timers.md section 3, spec/60_exceptions.md sections 1, 4 and 5,
spec/70_reset_and_hazards.md), and the statements on them. -/

namespace Sys2Proof.Machine

variable {s : State}

/-! ## Key events -/

/-- R172: a key event sets its latch, whatever it does beside that. -/
theorem keyEvent_key (k : Reg) (isDown : Bool) (s : State) : (keyEvent k isDown s).key = s.key.set k isDown := by
  cases isDown with
  | true => rfl
  | false =>
    cases hkw : s.kw with
    | awaitingRelease d => rw [keyEvent_release_waiting k hkw]; rfl
    | idle | captured => rw [keyEvent_release_not_waiting k (by simp [hkw])]; rfl

theorem keyEvent_latch (k : Reg) (isDown : Bool) (s : State) (j : Reg) :
    (keyEvent k isDown s).key[j] = if j = k then isDown else s.key[j] := by
  rw [keyEvent_key]
  by_cases hj : j = k
  · subst hj
    simp
  · have hval : k.val ≠ j.val := Fin.val_ne_of_ne (Ne.symm hj)
    simp [hj, Vector.getElem_set_ne, hval]

/-- R153: what the release of a key during a wait does. -/
theorem keyEvent_release_waiting_effect (k : Reg) {d : Reg} (hkw : s.kw = .awaitingRelease d) :
    ((keyEvent k false s).reg d).toNat = k.val ∧ (keyEvent k false s).kw = .captured ∧
      SameRegsExcept [d] s (keyEvent k false s) ∧
      SameExcept [.keys, .registers, .keyWait] s (keyEvent k false s) := by
  rw [keyEvent_release_waiting k hkw]
  let latched := s.setKey k false
  let written := latched.setReg d (BitVec.ofNat 8 k.val)
  have hnumber : (written.reg d).toNat = k.val := by rw [State.reg_setReg_same, keyNumber_toNat]
  have hframe : SameExcept [.keys, .registers, .keyWait] s (written.setKw .captured) :=
    ((s.setKey_frame k false).trans (latched.setReg_frame d _)).trans (written.setKw_frame .captured)
  exact ⟨hnumber, rfl, latched.setReg_regs_frame d _, hframe⟩

/-- D15, D16: a press, and a release outside a wait, are a write to the latch. -/
theorem keyEvent_eq_setKey {k : Reg} {isDown : Bool} (h : (∀ d, s.kw ≠ .awaitingRelease d) ∨ isDown = true) :
    keyEvent k isDown s = s.setKey k isDown := by
  cases isDown with
  | true => exact keyEvent_press s k
  | false => exact keyEvent_release_not_waiting k (h.resolve_right nofun)

/-! ## Ticks -/

/-- Counting down `n` times stops at zero as subtraction does. -/
theorem ticks (n : Nat) (s : State) : ∃ t, handleAll (List.replicate n .tick) s = .next t ∧
    t.dt.toNat = s.dt.toNat - n ∧ t.st.toNat = s.st.toNat - n ∧ SameExcept [.delayTimer, .soundTimer] s t := by
  induction n generalizing s with
  | zero => exact ⟨s, rfl, rfl, rfl, SameExcept.refl _ s⟩
  | succ n ih =>
    obtain ⟨t, hrest, hdt, hst, hframe⟩ := ih (tick s)
    rw [tick_dt_toNat] at hdt
    rw [tick_st_toNat] at hst
    exact ⟨t, hrest, by omega, by omega, (tick_frame s).trans_same hframe⟩

/-! ## Reset and load -/

/-- R190: only the model's own two fields keep what they were. -/
theorem resetEvent_frame (s : State) : SameExcept [.draws, .diag] State.reset (resetEvent s) := by
  intro p hp
  cases p with
  | draws | diag => simp at hp
  | memory | registers => exact fun _ => rfl
  | stack => exact ⟨rfl, rfl⟩
  | index | pc | delayTimer | soundTimer | keys | keyWait | mode | lowBuffer | highBuffer => rfl

section Load

variable {rom : List Byte} (hfits : rom.length ≤ 3584) (s : State)
include hfits

theorem load_success : (load rom s).1 = true := by
  rw [load_of_le_maxProgram hfits]

theorem load_state : (load rom s).2 = (resetEvent s).storeBytes 0x200 rom := by
  rw [load_of_le_maxProgram hfits]
  rfl

theorem length_rom_le_memSize : rom.length ≤ Config.memSize := hfits.trans (by decide)

/-- R194: byte `k` of the program stands at `0x200 + k`. -/
theorem load_program {k : Nat} (hk : k < rom.length) : (load rom s).2.memRead (0x200 + k) = rom[k] := by
  rw [load_state hfits]
  exact State.memRead_storeBytes_inside _ 0x200 rom (length_rom_le_memSize hfits) k hk

/-- R195: the program does not reach round the end of memory, so every byte beside it is as after reset. -/
theorem load_outside_program {a : Nat} (ha : a < 4096) (hout : a < 0x200 ∨ 0x200 + rom.length ≤ a) :
    (load rom s).2.memRead a = State.reset.memRead a := by
  rw [load_state hfits]
  refine State.memRead_storeBytes_outside (resetEvent s) 0x200 rom (length_rom_le_memSize hfits) a fun k hk => ?_
  rw [Config.memSize]
  omega

theorem load_frame : SameExcept [.memory, .draws, .diag] State.reset (load rom s).2 := by
  rw [load_state hfits]
  exact ((resetEvent_frame s).trans ((resetEvent s).storeBytes_frame 0x200 rom)).mono (by simp)

end Load

/-! ## Reset contents -/

theorem memRead_reset {a : Nat} (ha : a < 4096) : State.reset.memRead a = Memory.initial a :=
  Memory.read_nil ha

/-! ## Observation -/

theorem soundLevel_iff (s : State) : soundLevel s = true ↔ 0 < s.st.toNat := by
  rw [soundLevel, bne_iff_ne]
  constructor <;> intro h <;> bv_omega

/-- R177: pixel `(c, r)` of the picture is that of the active buffer. -/
theorem observe_pixel (s : State) {c r : Nat} (hc : c < s.width) (hr : r < s.height) :
    ((observe s).picture[r]?.bind fun row => row[c]?) = some (s.pixel c r) := by
  simp [observe, hc, hr]

theorem observe_row_length (s : State) {row : List Bool} (hrow : row ∈ (observe s).picture) :
    row.length = s.width := by
  obtain ⟨r, -, rfl⟩ := List.mem_map.1 hrow
  rw [List.length_map, List.length_range]

/-! ## Scrolling by no row -/

theorem scrollDown_zero {w h : Nat} (buf : Buffer w h) : scrollDown 0 buf = buf := by
  ext r hr
  simp

/-- R69: `00C0` leaves every state as it is. -/
theorem exec_scd_zero (s : State) : exec (.scd 0) s = .next s := by
  rw [exec_scd]
  congr 1
  cases hm : s.mode with
  | lowRes =>
    rw [State.updateActive_low hm]
    exact congrArg s.setLo (scrollDown_zero s.lo)
  | highRes =>
    rw [State.updateActive_high hm]
    exact congrArg s.setHi (scrollDown_zero s.hi)

end Sys2Proof.Machine

namespace Sys2Proof.Proofs

open Sys2Proof.Machine

/-- Settles O5: `y` is no operand of the two shifts, `00C0` scrolls by no row, and `Dxy0` is the encoding of the super
sprite. -/
theorem ignoredAndSpeciallyReadFields : Obligations.IgnoredAndSpeciallyReadFields := by
  refine ⟨fun x y z s => ⟨rfl, rfl⟩, fun s => ?_, fun x y => decode_encode (.drwSuper x y) rfl⟩
  rw [show decode 0x00C0 = .scd 0 from decode_encode (.scd 0) rfl]
  exact exec_scd_zero s

/-- Settles O49, one clause for each state of the key wait. -/
theorem keyWaitInstruction : Obligations.KeyWaitInstruction :=
  fun x _ => ⟨ldVxK_idle_frame x, fun _ => ldVxK_waiting_frame x, ldVxK_captured_frame x⟩

/-- Settles O50: only `Fx0A` is listed for the key wait among the instructions, and a release acts only during a wait. -/
theorem keyWaitTransitions : Obligations.KeyWaitTransitions := by
  refine ⟨fun s t hstep hne => step_frame hstep .keyWait ?_, fun s k => rfl, fun s k d hkw => ?_,
    fun s k hkw => ?_, fun s => ⟨rfl, rfl⟩, fun s => rfl, fun rom s hfits => ?_⟩
  · simpa using fun h => (keyWait_mem_mayWrite h).elim hne
  · rw [keyEvent_release_waiting k hkw]
    rfl
  · have hnot : ∀ d, s.kw ≠ .awaitingRelease d := fun d hd => by simp [hd] at hkw
    rw [keyEvent_release_not_waiting k hnot]
    exact ⟨rfl, fun _ => rfl⟩
  · rw [load_state hfits]
    rfl

/-- Settles O52: a key event is a write to the latch, and during a wait the release writes two parts more. -/
theorem keyEventLatchesAndCaptures : Obligations.KeyEventLatchesAndCaptures := by
  refine fun s k isDown => ⟨keyEvent_latch k isDown s, ?_, fun h => ?_⟩
  · rintro d hkw rfl
    exact keyEvent_release_waiting_effect k hkw
  · rw [keyEvent_eq_setKey h]
    exact s.setKey_frame k isDown

/-- Settles O54, by induction on the number of ticks. -/
theorem timersAfterManyTicks : Obligations.TimersAfterManyTicks := ticks

/-- Settles O55: nothing is stored after reset, so the fonts read as the reset contents of memory. -/
theorem resetValuesOfTheSource : Obligations.ResetValuesOfTheSource := by
  refine ⟨fun r => ?_, rfl, rfl, rfl, fun r => ?_, fun r => ?_, fun k => ?_, fun k => ?_⟩
  · simp [State.reset, State.reg]
  · simp [State.reset]
  · simp [State.reset]
  · rw [memRead_reset (by omega), Memory.initial_fontLo]
  · rw [memRead_reset (by omega), Memory.initial_fontHi]

/-- Settles O56: nothing is stored after reset, so memory outside the fonts reads as zero. -/
theorem resetValuesOfDecisionD11 : Obligations.ResetValuesOfDecisionD11 := by
  refine ⟨rfl, fun k => ?_, rfl, fun k => ?_, rfl, rfl, fun a hlow hhigh => ?_⟩
  · simp [State.reset]
  · simp [State.reset, State.keyDown]
  · rw [memRead_reset hhigh, Memory.initial_rest hlow]

/-- Settles O57, from the frame of a reset and the block store of the program into the reset machine. -/
theorem resetAndLoadStartAfresh : Obligations.ResetAndLoadStartAfresh := by
  refine ⟨fun s => ⟨resetEvent s, rfl, resetEvent_frame s, rfl, rfl, rfl⟩, fun rom s hfits => ?_⟩
  have hdraws : (load rom s).2.draws = s.draws := by rw [load_state hfits]; rfl
  have hdiag : (load rom s).2.diag = s.diag := by rw [load_state hfits]; rfl
  exact ⟨load_success hfits s, handle_load s, fun _ => load_program hfits s, fun _ => load_outside_program hfits s,
    load_frame hfits s, hdraws, hdiag⟩

/-- Settles O59: the catch-all is one report. -/
theorem unknownWordsAreReportedNoOps : Obligations.UnknownWordsAreReportedNoOps :=
  fun op s => ⟨_, exec_unknown s op, rfl, s.emitDiag_frame op⟩

/-- Settles O60: the picture lists the pixels of the active buffer row by row. -/
theorem observationShowsTheActiveBuffer : Obligations.ObservationShowsTheActiveBuffer := by
  intro s
  have hheight : (observe s).picture.length = s.height := by simp [observe]
  exact ⟨rfl, rfl, soundLevel_iff s, hheight, fun _ => observe_row_length s, fun _ _ => observe_pixel s⟩

end Sys2Proof.Proofs
end

section
/-! Sprite drawing (spec/45_draw.md R135 to R142): the pixels and the collision report of one draw, a second draw at the
same place, and the statements on both instructions. -/

namespace Sys2Proof.Machine

variable {sw : Nat}

/-! ## One buffer -/

section Buffer

variable {w h : Nat} (buf : Buffer w h) (vx vy : Byte) (rows : Nat) (row : Nat → BitVec sw) {c r : Nat}

/-- A pixel of the sprite is a pixel of its row put at the start column, in the rows that are drawn (R137, R140). -/
theorem spritePixel_eq_placeRow (x0 y0 : Nat) (hsw : sw ≤ w) (hc : c < w) :
    spritePixel row x0 y0 rows c r =
      (decide (y0 ≤ r ∧ r < y0 + rows) && (placeRow w x0 (row (r - y0))).getMsbD c) := by
  rw [getMsbD_placeRow _ _ _ hsw hc, spritePixel, ← Bool.and_assoc, ← Bool.decide_and]
  congr 2
  exact propext (by tauto)

theorem drawSprite_getElem (hr : r < h) : (drawSprite buf vx vy rows row).1[r] =
    if vy.toNat % h ≤ r ∧ r < vy.toNat % h + rows then
      buf[r] ^^^ placeRow w (vx.toNat % w) (row (r - vy.toNat % h)) else buf[r] := by
  rw [drawSprite, drawRows_getElem, Nat.add_zero]

theorem bufferPixel_drawSprite (hsw : sw ≤ w) (hc : c < w) (hr : r < h) :
    bufferPixel (drawSprite buf vx vy rows row).1 c r =
      (bufferPixel buf c r ^^ spritePixel row (vx.toNat % w) (vy.toNat % h) rows c r) := by
  rw [bufferPixel_of_lt _ hr, bufferPixel_of_lt _ hr, spritePixel_eq_placeRow _ _ _ _ hsw hc,
    drawSprite_getElem]
  by_cases hdrawn : vy.toNat % h ≤ r ∧ r < vy.toNat % h + rows
  · rw [if_pos hdrawn, BitVec.getMsbD_xor, decide_eq_true hdrawn, Bool.true_and]
  · rw [if_neg hdrawn, decide_eq_false hdrawn, Bool.false_and, Bool.xor_false]

/-- R141: a collision is a lit pixel of the sprite on a lit pixel of the buffer. -/
theorem drawSprite_collided (hsw : sw ≤ w) : (drawSprite buf vx vy rows row).2 = true ↔
    ∃ c r, c < w ∧ r < h ∧ bufferPixel buf c r = true ∧
      spritePixel row (vx.toNat % w) (vy.toNat % h) rows c r = true := by
  rw [drawSprite, drawRows_collided]
  constructor
  · rintro (hfalse | ⟨r, hr, hdrawn, hmeet⟩)
    · cases hfalse
    · obtain ⟨c, hc, hboth⟩ := (ne_zero_iff_getMsbD _).1 hmeet
      rw [BitVec.getMsbD_and, Bool.and_eq_true] at hboth
      obtain ⟨hold, hmask⟩ := hboth
      refine ⟨c, r, hc, hr, (bufferPixel_of_lt buf hr).trans hold, ?_⟩
      rw [spritePixel_eq_placeRow _ _ _ _ hsw hc, hmask, Bool.and_true]
      exact decide_eq_true hdrawn
  · rintro ⟨c, r, hc, hr, hold, hsprite⟩
    rw [spritePixel_eq_placeRow _ _ _ _ hsw hc, Bool.and_eq_true, decide_eq_true_eq] at hsprite
    obtain ⟨hdrawn, hmask⟩ := hsprite
    rw [bufferPixel_of_lt buf hr] at hold
    refine .inr ⟨r, hr, hdrawn, (ne_zero_iff_getMsbD _).2 ⟨c, hc, ?_⟩⟩
    rw [BitVec.getMsbD_and, hold, hmask]
    rfl

/-- XOR-ing the same rows in twice restores the buffer. -/
theorem drawSprite_twice : (drawSprite (drawSprite buf vx vy rows row).1 vx vy rows row).1 = buf := by
  apply Vector.ext
  intro r hr
  simp only [drawSprite_getElem]
  split
  · rw [BitVec.xor_assoc, BitVec.xor_self, BitVec.xor_zero]
  · rfl

end Buffer

/-! ## The active buffer -/

section Active

variable {i : Instr} (s : State) (x y : Reg) (rows : Nat) (row : Nat → BitVec sw)

theorem State.width_ge (s : State) : 64 ≤ s.width := by
  unfold State.width
  split <;> decide

theorem State.pixel_draw : ∀ (s : State) (c r : Nat), (s.draw x y rows row).pixel c r =
    bufferPixel (drawSprite s.activeBuffer (s.reg x) (s.reg y) rows row).1 c r
  | { mode := .lowRes, .. }, _, _ | { mode := .highRes, .. }, _, _ => rfl

/-- R140, R141: what a draw of any sprite that is not wider than the screen does. -/
theorem draw_effect {s : State} (hsw : sw ≤ 64) (hexec : exec i s = .next (s.draw x y rows row)) :
    ∃ t, exec i s = .next t ∧
      (∀ c r, c < s.width → r < s.height → t.pixel c r = (s.pixel c r ^^ s.spriteAt x y rows row c r)) ∧
      ((t.reg 15 = 1 ∧ ∃ c r, c < s.width ∧ r < s.height ∧ s.pixel c r = true ∧
          s.spriteAt x y rows row c r = true) ∨
        (t.reg 15 = 0 ∧ ∀ c r, c < s.width → r < s.height → s.pixel c r = true →
          s.spriteAt x y rows row c r = false)) ∧
      SameRegsExcept [15] s t ∧ SameExcept [.registers, s.activePart] s t := by
  have hfits : sw ≤ s.width := hsw.trans s.width_ge
  refine ⟨_, hexec, fun c r hc hr => ?_, ?_, s.draw_regs_frame x y rows row, s.draw_frame x y rows row⟩
  · rw [State.pixel_draw, bufferPixel_drawSprite _ _ _ _ _ hfits hc hr, ← State.pixel_eq]
    rfl
  · have hcollided := drawSprite_collided s.activeBuffer (s.reg x) (s.reg y) rows row hfits
    simp only [← State.pixel_eq] at hcollided
    rw [State.draw_reg_vf, flagByte_eq_one, flagByte_eq_zero]
    cases hb : (drawSprite s.activeBuffer (s.reg x) (s.reg y) rows row).2 with
    | true => exact .inl ⟨rfl, hcollided.1 hb⟩
    | false =>
      refine .inr ⟨rfl, fun c r hc hr hlit => Bool.eq_false_of_not_eq_true fun hsprite => ?_⟩
      rw [hcollided.2 ⟨c, r, hc, hr, hlit, hsprite⟩] at hb
      cases hb

/-! ## A second draw at the same place -/

theorem State.draw_reg_of_ne {r : Reg} (hr : r ≠ 15) : (s.draw x y rows row).reg r = s.reg r :=
  s.draw_regs_frame x y rows row r (by simpa [flagReg] using hr)

theorem State.width_draw : (s.draw x y rows row).width = s.width := by
  rw [State.width, State.draw_mode, State.width]

theorem State.height_draw : (s.draw x y rows row).height = s.height := by
  rw [State.height, State.draw_mode, State.height]

variable {x y}

/-- A draw leaves the coordinates where they are, so the second one is at the same place. -/
theorem State.spriteAt_draw (hx : x ≠ 15) (hy : y ≠ 15) (c r : Nat) :
    (s.draw x y rows row).spriteAt x y rows row c r = s.spriteAt x y rows row c r := by
  rw [State.spriteAt, State.draw_reg_of_ne s x y rows row hx, State.draw_reg_of_ne s x y rows row hy,
    State.width_draw, State.height_draw, State.spriteAt]

theorem State.draw_twice_buffers (hx : x ≠ 15) (hy : y ≠ 15) :
    ((s.draw x y rows row).draw x y rows row).lo = s.lo ∧ ((s.draw x y rows row).draw x y rows row).hi = s.hi := by
  have hregx := State.draw_reg_of_ne s x y rows row hx
  have hregy := State.draw_reg_of_ne s x y rows row hy
  have hmode := s.draw_mode x y rows row
  cases hm : s.mode with
  | lowRes =>
    rw [State.draw_low (hmode.trans hm), hregx, hregy, State.draw_low hm]
    exact ⟨drawSprite_twice s.lo _ _ rows row, rfl⟩
  | highRes =>
    rw [State.draw_high (hmode.trans hm), hregx, hregy, State.draw_high hm]
    exact ⟨rfl, drawSprite_twice s.hi _ _ rows row⟩

/-- The statement on two draws, for an instruction whose sprite depends on memory and `I` only. -/
theorem draw_twice_effect {spriteOf : State → Nat → BitVec sw} (hsw : sw ≤ 64) (hx : x ≠ 15) (hy : y ≠ 15)
    (hexec : ∀ s, exec i s = .next (s.draw x y rows (spriteOf s)))
    (hsprite : ∀ {s t : State}, t.mem = s.mem → t.i = s.i → spriteOf t = spriteOf s) :
    ∃ t u, exec i s = .next t ∧ exec i t = .next u ∧ u.lo = s.lo ∧ u.hi = s.hi ∧
      (u.reg 15 = 1 ∧ (∃ c r, c < s.width ∧ r < s.height ∧ s.pixel c r = false ∧ t.pixel c r = true) ∨
        u.reg 15 = 0 ∧ ∀ c r, c < s.width → r < s.height → t.pixel c r = true → s.pixel c r = true) := by
  obtain ⟨t, hst, hpixel, -⟩ := draw_effect x y rows (spriteOf s) hsw (hexec s)
  obtain rfl : s.draw x y rows (spriteOf s) = t := Host.Outcome.next.inj ((hexec s).symm.trans hst)
  have hsame : spriteOf (s.draw x y rows (spriteOf s)) = spriteOf s := hsprite (s.draw_mem ..) (s.draw_i ..)
  have htu := hexec (s.draw x y rows (spriteOf s))
  rw [hsame] at htu
  obtain ⟨u, hsecond, -, hflag, -⟩ := draw_effect x y rows (spriteOf s) hsw htu
  obtain rfl : (s.draw x y rows (spriteOf s)).draw x y rows (spriteOf s) = u :=
    Host.Outcome.next.inj (htu.symm.trans hsecond)
  obtain ⟨hlo, hhi⟩ := s.draw_twice_buffers rows (spriteOf s) hx hy
  refine ⟨_, _, hst, hsecond, hlo, hhi, ?_⟩
  simp only [State.width_draw, State.height_draw, State.spriteAt_draw s rows (spriteOf s) hx hy] at hflag
  rcases hflag with ⟨hone, c, r, hc, hr, hlit, hon⟩ | ⟨hzero, hnone⟩
  · refine .inl ⟨hone, c, r, hc, hr, ?_, hlit⟩
    rw [hpixel c r hc hr, hon] at hlit
    simpa using hlit
  · refine .inr ⟨hzero, fun c r hc hr hlit => ?_⟩
    have hoff := hnone c r hc hr hlit
    rw [hpixel c r hc hr, hoff, Bool.xor_false] at hlit
    exact hlit

end Active

/-! ## The two sprites -/

theorem State.spriteRow_eq (s : State) : s.spriteRow = fun k => s.memRead (s.i.toNat + k) :=
  funext fun k => s.loadIndexed_eq k

theorem State.superRow_eq (s : State) :
    s.superRow = fun k => s.memRead (s.i.toNat + 2 * k) ++ s.memRead (s.i.toNat + 2 * k + 1) := by
  funext k
  rw [State.superRow, State.loadIndexed_eq, State.loadIndexed_eq, Nat.add_assoc]

theorem spriteRow_congr {s t : State} (hmem : t.mem = s.mem) (hi : t.i = s.i) : t.spriteRow = s.spriteRow := by
  simp only [State.spriteRow_eq, State.memRead, hmem, hi]

theorem superRow_congr {s t : State} (hmem : t.mem = s.mem) (hi : t.i = s.i) : t.superRow = s.superRow := by
  simp only [State.superRow_eq, State.memRead, hmem, hi]

end Sys2Proof.Machine

namespace Sys2Proof.Proofs

open Sys2Proof.Machine

/-- Settles O44: the draw of a sprite 8 pixels wide, whose rows are the bytes at `I` upward. -/
theorem drawTogglesTheClippedSprite : Obligations.DrawTogglesTheClippedSprite := by
  intro x y n s
  rw [← s.spriteRow_eq]
  exact draw_effect x y n.toNat s.spriteRow (by decide) (exec_drw s x y n)

/-- Settles O45: the draw of a sprite 16 pixels wide, whose rows are pairs of bytes at `I` upward. -/
theorem superDrawTogglesTheClippedSprite : Obligations.SuperDrawTogglesTheClippedSprite := by
  intro x y s
  rw [← s.superRow_eq]
  exact draw_effect x y Config.superRows s.superRow (by decide) (exec_drwSuper s x y)

/-- Settles O46, for either width: the second draw is at the same place, and meets exactly what the first one lit. -/
theorem drawingTwiceRestoresTheScreen : Obligations.DrawingTwiceRestoresTheScreen := by
  intro x y n i s hx hy hi
  rcases hi with rfl | rfl
  · exact draw_twice_effect s n.toNat (by decide) hx hy (fun s => exec_drw s x y n) spriteRow_congr
  · exact draw_twice_effect s superSpriteRows (by decide) hx hy (fun s => exec_drwSuper s x y) superRow_congr

end Sys2Proof.Proofs
end
